-- ==== Sys2Proof/Word.lean ====
section
/-! DEFINITION. The word types of the CI-V band-conflict block (00_scope.md R10). -/

namespace Sys2Proof

/-- `u8`: an unsigned integer of 8 bits, the unit of every input (R10, 20_memory.md R40). -/
abbrev Byte := BitVec 8

/-- `u32`: an unsigned integer of 32 bits, a frequency in Hz (R10, 41_value_codec.md R90). -/
abbrev Word := BitVec 32

/-- A timestamp: `TIME_WIDTH` = 32 bits, unit 1 ms (00_scope.md R7). -/
abbrev Time := BitVec 32

end Sys2Proof
end

