-- ==== Sys2Proof/Config.lean ====
section
/-! DEFINITION. What an implementation of the block fixes: the parameters of 00_scope.md R7 that the spec leaves open.
The values the spec fixes are named in Machine/Literals.lean. A configuration does not change while the block runs (R8).
There is no free value: the spec leaves no result of an operation open (93_implementation_defined.md part 1), only
parameters. -/

namespace Sys2Proof

/-- A station id, `k ∈ {1, 2}` (10_state.md R15). -/
inductive StationId where
  | one
  | two
  deriving DecidableEq, Repr

/-- The two parties whose addresses a frame may carry: the controller (`CTRL_ADDR`) and the transceiver (`RADIO_ADDR`)
(20_memory.md R43, 30_encoding.md R53). -/
inductive Party where
  | controller
  | radio
  deriving DecidableEq, Repr

/-- One entry `(low_i, high_i)` of `BAND_TABLE`, in Hz (42_band_mapper.md R98). The entry's name is for the reader
and enters no rule. -/
structure BandRange where
  low : Word
  high : Word
  deriving DecidableEq, Repr

/-- The parameters of 00_scope.md R7 that the spec leaves open. Maps and sets are lists (log 8). -/
structure Config where
  /-- `RADIO_ADDR`: the transceiver's configured address. -/
  radioAddr : Byte
  /-- `MAX_FRAME_LEN`: the assembler's buffer size and the longest frame accepted. -/
  maxFrameLen : Nat
  /-- `N_LINKS`: the number of byte-stream links. -/
  nLinks : Nat
  /-- `STATION_MAP(CTRL_ADDR)`. -/
  ctrlStation : StationId
  /-- `STATION_MAP(RADIO_ADDR)`. -/
  radioStation : StationId
  /-- `BAND_TABLE`: the band code of an entry is its 1-based position. -/
  bandTable : List BandRange
  /-- `MODE_TABLE`: pairs of a mode byte and its mode code. -/
  modeTable : List (Byte × Byte)
  /-- `CONFLICT_PAIRS`: each pair stands for an unordered pair of band codes. -/
  conflictPairs : List (Byte × Byte)
  /-- `HOLD_TIME`: `BAND_CONFLICT_HOLD_TIME`, in ms. -/
  holdTime : Time
  deriving DecidableEq, Repr

end Sys2Proof
end

