-- ==== Sys2Proof/Machine/Literals.lean ====
section
/-! DEFINITION. The numeric literals of the source, each a named constant (00_scope.md R6, 93_implementation_defined.md
I14). The source's literals are unaudited; the spec takes them as normative as written (log 10). -/

namespace Sys2Proof

/-- `START_OF_MSG` (00_scope.md R7, 30_encoding.md R52). -/
def startOfMsg : Byte := 0xFE

/-- `END_OF_MSG` (R7, 30_encoding.md R52). -/
def endOfMsg : Byte := 0xFD

/-- `CTRL_ADDR`, the controller's address (R7, 20_memory.md R43). -/
def ctrlAddr : Byte := 0x00

/-- `SEND_FREQ_CMD`, the command code of SEND_FREQ (30_encoding.md R54). -/
def sendFreqCmd : Byte := 0x00

/-- `SEND_MODE_CMD`, the command code of SEND_MODE (30_encoding.md R54). -/
def sendModeCmd : Byte := 0x01

/-- `QUERY_FREQ_CMD`, the command code of QUERY_FREQ (30_encoding.md R54). -/
def queryFreqCmd : Byte := 0x03

/-- `QUERY_MODE_CMD`, the command code of QUERY_MODE (30_encoding.md R54). -/
def queryModeCmd : Byte := 0x04

/-- `MIN_FRAME_LEN` (R7, 40_frame_decoder.md R67). -/
def minFrameLen : Nat := 6

/-- `FREQ_DATA_SIZE`, the length of a frequency's data area (R7, 30_encoding.md R55). -/
def freqDataSize : Nat := 4

/-- The example address 0x94 of the source's scenario (R6); the test configuration's `RADIO_ADDR` (R9). -/
def exampleRadioAddr : Byte := 0x94

end Sys2Proof
end

