-- ==== Sys2Proof/Machine/TestConfig.lean ====
section
/-! DEFINITION. The test configuration TC of 00_scope.md R9 and the default tables it uses. No rule depends on them;
`State.reset` carries TC (log 1). -/

namespace Sys2Proof

/-- The default `BAND_TABLE` (42_band_mapper.md R103): 160m, 80m, 60m, 40m, 30m, 20m, 17m, 15m, 12m, 10m, 6m, 2m,
1.25m, 70cm. UNVERIFIED but for the 40m row: general knowledge, not in the source (log 11). -/
def defaultBandTable : List BandRange :=
  [⟨1800000, 2000000⟩, ⟨3500000, 4000000⟩, ⟨5351500, 5366500⟩, ⟨7000000, 7300000⟩, ⟨10100000, 10150000⟩,
   ⟨14000000, 14350000⟩, ⟨18068000, 18168000⟩, ⟨21000000, 21450000⟩, ⟨24890000, 24990000⟩, ⟨28000000, 29700000⟩,
   ⟨50000000, 54000000⟩, ⟨144000000, 148000000⟩, ⟨222000000, 225000000⟩, ⟨420000000, 450000000⟩]

/-- The default `MODE_TABLE` (41_value_codec.md R96): LSB, USB, AM, CW, RTTY, FM, WFM, CW-R, RTTY-R, DV. UNVERIFIED:
the byte values are general knowledge (log 11). -/
def defaultModeTable : List (Byte × Byte) :=
  [(0x00, 1), (0x01, 2), (0x02, 3), (0x03, 4), (0x04, 5), (0x05, 6), (0x06, 7), (0x07, 8), (0x08, 9), (0x17, 10)]

/-- The test configuration TC (00_scope.md R9). -/
def Config.test : Config where
  radioAddr := exampleRadioAddr
  maxFrameLen := 16
  nLinks := 1
  ctrlStation := .two
  radioStation := .one
  bandTable := defaultBandTable
  modeTable := defaultModeTable
  conflictPairs := []
  holdTime := 5000

end Sys2Proof
end

