-- ==== Sys2Proof/Syntax.lean ====
section
/-! DEFINITION. The commands of the block: one constructor per row of spec/opcode_table.json (30_encoding.md R54).
A command is what the validator extracts from a frame (40_frame_decoder.md R74): the destination and the source, each
one of the two accepted parties, the command code, and the data area `data[0 .. D-1]`. -/

namespace Sys2Proof

/-- A validated CI-V command (30_encoding.md R54). `dest` is checked by the validator and selects nothing (R53). -/
inductive Instr where
  /-- SEND_FREQ, `cmd = 0x00` (43_station_processor.md R109). -/
  | sendFreq (dest src : Party) (data : List Byte)
  /-- SEND_MODE, `cmd = 0x01` (43_station_processor.md R112). -/
  | sendMode (dest src : Party) (data : List Byte)
  /-- QUERY_FREQ, `cmd = 0x03` (43_station_processor.md R110). -/
  | queryFreq (dest src : Party) (data : List Byte)
  /-- QUERY_MODE, `cmd = 0x04` (43_station_processor.md R113). -/
  | queryMode (dest src : Party) (data : List Byte)
  /-- OTHER, any other `cmd` (43_station_processor.md R115). -/
  | other (dest src : Party) (cmd : Byte) (data : List Byte)
  deriving DecidableEq, Repr

end Sys2Proof
end

