-- ==== Sys2Proof/WellFormed.lean ====
section
/-! DEFINITION. The checks on a configuration (00_scope.md R8) and on a command. -/

namespace Sys2Proof

/-- R99: `low_i ≤ high_i` for every entry, and `high_i < low_(i+1)` for every two neighbours. -/
def bandsSorted : List BandRange → Bool
  | [] => true
  | [r] => decide (r.low ≤ r.high)
  | r :: r' :: rest => decide (r.low ≤ r.high) && decide (r.high < r'.low) && bandsSorted (r' :: rest)

/-- A well-formed `BAND_TABLE` (42_band_mapper.md R99): sorted, no two entries overlap, `1 ≤ N ≤ 255`. -/
def bandTableWf (t : List BandRange) : Bool :=
  bandsSorted t && decide (1 ≤ t.length) && decide (t.length ≤ 255)

/-- A band code of a `BAND_TABLE` with `n` entries: in `1 .. n` (00_scope.md R8). -/
def bandCodeOk (n : Nat) (c : Byte) : Bool :=
  decide (1 ≤ c.toNat) && decide (c.toNat ≤ n)

/-- A well-formed configuration (00_scope.md R8). That `STATION_MAP` maps both addresses into {1, 2} holds by its
type. -/
def Config.wf (c : Config) : Bool :=
  (c.radioAddr != ctrlAddr && c.radioAddr != endOfMsg && c.radioAddr != startOfMsg)
    && decide (10 ≤ c.maxFrameLen)
    && decide (1 ≤ c.nLinks)
    && bandTableWf c.bandTable
    && c.modeTable.all (fun e => e.2 != 0)
    && c.conflictPairs.all (fun p => bandCodeOk c.bandTable.length p.1 && bandCodeOk c.bandTable.length p.2)
    && (decide (1 ≤ c.holdTime) && decide (c.holdTime ≤ 0x7FFFFFFF))

/-- The four command codes of the table's own rows (30_encoding.md R54). -/
def isNamedCommand (cmd : Byte) : Bool :=
  cmd == sendFreqCmd || cmd == sendModeCmd || cmd == queryFreqCmd || cmd == queryModeCmd

/-- The data area of a command. -/
def Instr.data : Instr → List Byte
  | .sendFreq _ _ data => data
  | .sendMode _ _ data => data
  | .queryFreq _ _ data => data
  | .queryMode _ _ data => data
  | .other _ _ _ data => data

/-- The command code is OTHER's own: `cmd ∉ {0x00, 0x01, 0x03, 0x04}` (43_station_processor.md R115). -/
def Instr.codeOk : Instr → Bool
  | .sendFreq _ _ _ => true
  | .sendMode _ _ _ => true
  | .queryFreq _ _ _ => true
  | .queryMode _ _ _ => true
  | .other _ _ cmd _ => !isNamedCommand cmd

/-- A command some frame carries: its code is its own, and its frame of `6 + D` bytes is no longer than
`MAX_FRAME_LEN` (30_encoding.md R51, 40_frame_decoder.md R68). -/
def Instr.wf (c : Config) (i : Instr) : Bool :=
  i.codeOk && decide (minFrameLen + i.data.length ≤ c.maxFrameLen)

end Sys2Proof
end

