-- ==== Sys2Proof/Decode.lean ====
section
/-! DEFINITION. The validator of 40_frame_decoder.md (R66 to R76), which is the block's decoder: a pure function from
a delimited frame to a command or a `FrameError`; and after it the encoder, from the frame layout of 30_encoding.md
R50. -/

namespace Sys2Proof

/-- The four frame errors (60_exceptions.md R139). The validator answers with the first three; BAD_ENCODING is raised
after dispatch (90_conflicts.md C7). -/
inductive FrameError where
  | tooShort
  | badFraming
  | badAddress
  | badEncoding
  deriving DecidableEq, Repr

/-- What the validator returns: `ok` with the fields of the frame, as a command, or `err(code)` (R66). -/
inductive Decoded where
  | ok (i : Instr)
  | err (e : FrameError)
  deriving DecidableEq, Repr

/-- The party an address byte names: `CTRL_ADDR` or `RADIO_ADDR`, no other (R72). -/
def partyOf (c : Config) (b : Byte) : Option Party :=
  if b = ctrlAddr then some .controller
  else if b = c.radioAddr then some .radio
  else none

/-- The address byte of a party (20_memory.md R43). -/
def addrOf (c : Config) : Party → Byte
  | .controller => ctrlAddr
  | .radio => c.radioAddr

/-- The command that a command code, the parties and a data area make (30_encoding.md R54, 43_station_processor.md
R108). -/
def commandOf (cmd : Byte) (dest src : Party) (data : List Byte) : Instr :=
  if cmd = sendFreqCmd then .sendFreq dest src data
  else if cmd = sendModeCmd then .sendMode dest src data
  else if cmd = queryFreqCmd then .queryFreq dest src data
  else if cmd = queryModeCmd then .queryMode dest src data
  else .other dest src cmd data

/-- `validate(f, L)` (R76), the checks in the order of R73. `tail` is `f[5] .. f[L-1]`: the data area and the end
marker. -/
def decode (c : Config) (f : List Byte) : Decoded :=
  if f.length < minFrameLen then .err .tooShort
  else if c.maxFrameLen < f.length then .err .badFraming
  else
    match f with
    | b0 :: b1 :: b2 :: b3 :: b4 :: tail =>
      if b0 ≠ startOfMsg ∨ b1 ≠ startOfMsg then .err .badFraming
      else if b2 = startOfMsg then .err .badFraming
      else if tail.getLast? ≠ some endOfMsg then .err .badFraming
      else
        match partyOf c b2, partyOf c b3 with
        | some dest, some src => .ok (commandOf b4 dest src tail.dropLast)
        | _, _ => .err .badAddress
    | _ => .err .tooShort

/-- The destination of a command. -/
def Instr.dest : Instr → Party
  | .sendFreq dest _ _ => dest
  | .sendMode dest _ _ => dest
  | .queryFreq dest _ _ => dest
  | .queryMode dest _ _ => dest
  | .other dest _ _ _ => dest

/-- The source of a command. -/
def Instr.src : Instr → Party
  | .sendFreq _ src _ => src
  | .sendMode _ src _ => src
  | .queryFreq _ src _ => src
  | .queryMode _ src _ => src
  | .other _ src _ _ => src

/-- The command code of a command (30_encoding.md R54). -/
def Instr.cmd : Instr → Byte
  | .sendFreq _ _ _ => sendFreqCmd
  | .sendMode _ _ _ => sendModeCmd
  | .queryFreq _ _ _ => queryFreqCmd
  | .queryMode _ _ _ => queryModeCmd
  | .other _ _ cmd _ => cmd

/-- The frame of a command, in transmission order (30_encoding.md R50). -/
def encode (c : Config) (i : Instr) : List Byte :=
  [startOfMsg, startOfMsg, addrOf c i.dest, addrOf c i.src, i.cmd] ++ i.data ++ [endOfMsg]

/-- Byte `j` of a table word, least significant first. -/
def tableByte (w j : Nat) : Byte := BitVec.ofNat 8 (w / 256 ^ j)

/-- How many data bytes the longest form of a command takes (30_encoding.md R54; OTHER takes any number and examines
none, so none here; log 9). -/
def operandLen (cmd : Byte) : Nat :=
  if cmd = sendFreqCmd ∨ cmd = queryFreqCmd then freqDataSize
  else if cmd = sendModeCmd ∨ cmd = queryModeCmd then 2
  else 0

/-- The frame that a word of spec/opcode_table.json stands for (log 9). The table's bits are numbered from byte 4 of
the frame (its `match_byte`), so byte 0 of the word is the command code and byte `j + 1` is `data[j]`; data bytes the
word does not give are 0, as far as the command's longest form; both addresses are `CTRL_ADDR`. -/
def tableFrame (nbits w : Nat) : List Byte :=
  let v := w % 2 ^ nbits
  let n := max (operandLen (tableByte v 0)) (nbits / 8 - 1)
  [startOfMsg, startOfMsg, ctrlAddr, ctrlAddr, tableByte v 0]
    ++ (List.range n).map (fun j => tableByte v (j + 1)) ++ [endOfMsg]

/-- The command the decoder reads from a table word (log 9), in the test configuration. -/
def decodeTableWord (nbits w : Nat) : Option Instr :=
  match decode Config.test (tableFrame nbits w) with
  | .ok i => some i
  | .err _ => none

end Sys2Proof
end

