-- ==== Sys2Proof/Machine/State.lean ====
section
/-! DEFINITION. The state of the block as plain data (10_state.md R14), the model's own fields beside it, the outcomes a
step may end in, and the state after RESET (R33). -/

namespace Sys2Proof.Machine

/-- A station record `ST[k]` (10_state.md R15 to R19). -/
structure Station where
  /-- `ST[k].band`: the band code, 0 = Unclassified (R16). -/
  band : Byte
  /-- `ST[k].mode`: the mode code, 0 = Unknown (R17). -/
  mode : Byte
  /-- `ST[k].filter`: the filter-width byte of the last mode frame (R18). -/
  filter : Byte
  /-- `ST[k].filter_valid` (R18). -/
  filterValid : Bool
  /-- `ST[k].last_change`: the `now` of the last operation that changed `band` (R19). -/
  lastChange : Time
  deriving DecidableEq, Repr

/-- The 2-bit code `MON.mstate` (10_state.md R21), its reserved encoding 3 included (log 6). -/
inductive MState where
  | clear
  | holding
  | alerting
  | reserved
  deriving DecidableEq, Repr

/-- The conflict monitor `MON` (10_state.md R21, R22). -/
structure Monitor where
  mstate : MState
  /-- `MON.since`: meaningful only in HOLDING, keeps its last value elsewhere (R22). -/
  since : Time
  deriving DecidableEq, Repr

/-- The 2-bit code `ASM[l].astate` (10_state.md R24), its reserved encoding 3 included (log 6). -/
inductive AState where
  | hunt
  | sync1
  | body
  | reserved
  deriving DecidableEq, Repr

/-- A frame assembler `ASM[l]` (10_state.md R24, R25). -/
structure Assembler where
  astate : AState
  /-- `ASM[l].cnt`: the number of valid bytes in `buf`. -/
  cnt : Nat
  /-- `ASM[l].buf`: `MAX_FRAME_LEN` cells. -/
  buf : List Byte
  deriving DecidableEq, Repr

/-- The `status` output (30_encoding.md R63). -/
inductive Status where
  | noFrame
  | freq
  | mode
  | ignored
  | tooShort
  | badFraming
  | badAddress
  | badEncoding
  deriving DecidableEq, Repr

/-- The `event` output (30_encoding.md R64). Code 3 is never produced and has no constructor. -/
inductive Event where
  | noEvent
  | raise
  | clear
  deriving DecidableEq, Repr

/-- The output record of one operation (10_state.md R32). A field that does not apply is 0. -/
structure Output where
  status : Status
  station : BitVec 2
  freq : Word
  band : Byte
  mode : Byte
  event : Event
  deriving DecidableEq, Repr

/-- `zero_out()`: every field 0 (40_frame_decoder.md R84, 70_reset_and_hazards.md R155). -/
def Output.zero : Output :=
  { status := .noFrame, station := 0, freq := 0, band := 0, mode := 0, event := .noEvent }

/-- The host operations (45_interface_ops.md R131; 30_encoding.md R65). -/
inductive HostOp where
  /-- FEED: one byte of link `l`'s stream (R132). -/
  | feed (l : Nat) (b : Byte) (now : Time)
  /-- FRAME: one frame the caller has delimited; `L` is the list's length (R133). -/
  | frame (f : List Byte) (now : Time)
  /-- TICK: a poll of the monitor (R134). -/
  | tick (now : Time)
  /-- RESET (R135). -/
  | reset
  deriving DecidableEq, Repr

/-- The whole state: the architectural state of 10_state.md R14 (`st1`, `st2`, `mon`, `asms`) and the model's own
fields (`cfg`, `wasReset`, `now`, `out`, `pending`; logs 1 to 5). -/
structure State where
  /-- The configuration, which no step changes (00_scope.md R8; log 1). -/
  cfg : Config
  /-- `was_reset`: a RESET has occurred (45_interface_ops.md R137; log 5). -/
  wasReset : Bool
  /-- `ST[1]`. -/
  st1 : Station
  /-- `ST[2]`. -/
  st2 : Station
  /-- `MON`. -/
  mon : Monitor
  /-- `ASM[0] .. ASM[N_LINKS - 1]`. -/
  asms : List Assembler
  /-- The `now` operand of the current operation (00_scope.md R12; log 3). -/
  now : Time
  /-- The output record of the last operation (10_state.md R32; log 4). -/
  out : Output
  /-- The host operations not yet applied, the next one first (45_interface_ops.md R131; log 2). -/
  pending : List HostOp
  deriving DecidableEq, Repr

/-- The block never stops with a fault: its errors are statuses, and the next operation is processed normally
(60_exceptions.md R148). No constructor; nothing raises it. -/
inductive Fault where
  deriving DecidableEq, Repr

/-- The refusals of 45_interface_ops.md R138 and 00_scope.md R8. "A refusal is not a block behaviour": it marks inputs
the spec gives no meaning, and all of them are safe. -/
inductive Refusal where
  /-- Raised by an arm of `exec` that has no meaning; no arm is left so. Safe. -/
  | notModelled (mnemonic : String)
  /-- BEFORE_RESET: raised by the step function on any operation but RESET, and by a read port, before the first RESET
  (R138, 10_state.md R34). Safe. -/
  | beforeReset
  /-- BAD_LINK: raised by FEED on a link `l ≥ N_LINKS` (R138). Safe. -/
  | badLink
  /-- UNREACHABLE_STATE: raised by the step function and by the evaluation on a state field that holds the reserved
  encoding 3, and by FEED on a state that lacks the link's assembler (R138; logs 6, 12). Safe. -/
  | unreachableState
  /-- Raised by the step function and by a read port when the configuration is not well-formed (00_scope.md R8; log
  13). Safe. -/
  | configNotWellFormed
  deriving DecidableEq, Repr

/-- A station record after RESET (10_state.md R33). -/
def Station.reset : Station :=
  { band := 0, mode := 0, filter := 0, filterValid := false, lastChange := 0 }

/-- The monitor after RESET (10_state.md R33). -/
def Monitor.reset : Monitor := { mstate := .clear, since := 0 }

/-- An assembler after RESET (10_state.md R33). DESIGN CHOICE: the cells of `buf`, which the spec leaves unspecified,
are 0 (log 7). -/
def Assembler.reset (c : Config) : Assembler :=
  { astate := .hunt, cnt := 0, buf := List.replicate c.maxFrameLen 0 }

/-- The state right after the first RESET, in the test configuration (10_state.md R33, 45_interface_ops.md R137), with
no operation pending (logs 1 to 5). -/
def State.reset : State where
  cfg := Config.test
  wasReset := true
  st1 := Station.reset
  st2 := Station.reset
  mon := Monitor.reset
  asms := List.replicate Config.test.nLinks (Assembler.reset Config.test)
  now := 0
  out := Output.zero
  pending := []

end Sys2Proof.Machine
end

