-- ==== Sys2Proof/Machine/Flags.lean ====
section
/-! DEFINITION. The flags and codes of the block (10_state.md R28): the conflict predicate, the hold test, the alert
level, and the numbers of the coded fields. -/

namespace Sys2Proof.Machine

/-- `{a, b} ∈ CONFLICT_PAIRS`, an unordered pair (44_conflict_monitor.md R120). -/
def inConflictPairs (c : Config) (a b : Byte) : Bool :=
  c.conflictPairs.contains (a, b) || c.conflictPairs.contains (b, a)

/-- The conflict predicate (44_conflict_monitor.md R119). -/
def conflicts (c : Config) (a b : Byte) : Bool :=
  a != 0 && b != 0 && (a == b || inConflictPairs c a b)

/-- `elapsed = (now − MON.since) mod 2^32` (44_conflict_monitor.md R121). -/
def elapsed (now since : Time) : Time := now - since

/-- The hold has run out: `elapsed ≥ HOLD_TIME`, unsigned (44_conflict_monitor.md R121). -/
def holdExpired (c : Config) (now since : Time) : Bool := decide (c.holdTime ≤ elapsed now since)

/-- The alert level: `MON.mstate = ALERTING`, a function of state (10_state.md R23). -/
def State.alert (s : State) : Bool := decide (s.mon.mstate = .alerting)

/-- The code of `MON.mstate` (10_state.md R21). -/
def MState.code : MState → BitVec 2
  | .clear => 0
  | .holding => 1
  | .alerting => 2
  | .reserved => 3

/-- The code of `ASM[l].astate` (10_state.md R24). -/
def AState.code : AState → BitVec 2
  | .hunt => 0
  | .sync1 => 1
  | .body => 2
  | .reserved => 3

/-- The code of the `status` output (30_encoding.md R63). -/
def Status.code : Status → BitVec 3
  | .noFrame => 0
  | .freq => 1
  | .mode => 2
  | .ignored => 3
  | .tooShort => 4
  | .badFraming => 5
  | .badAddress => 6
  | .badEncoding => 7

/-- The code of the `event` output (30_encoding.md R64). -/
def Event.code : Event → BitVec 2
  | .noEvent => 0
  | .raise => 1
  | .clear => 2

/-- The station id as the `station` output shows it (10_state.md R32). -/
def stationCode : StationId → BitVec 2
  | .one => 1
  | .two => 2

/-- The status that reports a frame error (60_exceptions.md R139). -/
def errorStatus : FrameError → Status
  | .tooShort => .tooShort
  | .badFraming => .badFraming
  | .badAddress => .badAddress
  | .badEncoding => .badEncoding

end Sys2Proof.Machine
end

