-- ==== Sys2Proof/Machine/Operands.lean ====
section
/-! DEFINITION. The operand forms of the commands: the station a source selects (43_station_processor.md R107), the BCD
frequency and the mode byte (41_value_codec.md), and the band lookup (42_band_mapper.md). Pure functions; none writes
state (R66, R86, R101). -/

namespace Sys2Proof.Machine

/-- `STATION_MAP(src)` (43_station_processor.md R107). -/
def stationOf (c : Config) : Party → StationId
  | .controller => c.ctrlStation
  | .radio => c.radioStation

/-- The high nibble `b[7:4]`, the tens digit (00_scope.md R10, 20_memory.md R38). -/
def hiNibble (b : Byte) : Nat := b.toNat / 16

/-- The low nibble `b[3:0]`, the units digit (00_scope.md R10, 20_memory.md R38). -/
def loNibble (b : Byte) : Nat := b.toNat % 16

/-- A valid BCD byte: both nibbles in 0..9 (41_value_codec.md R87). -/
def bcdValid (b : Byte) : Bool := decide (hiNibble b ≤ 9) && decide (loNibble b ≤ 9)

/-- The digit-pair value `p(b) = 10 · b[7:4] + b[3:0]` (41_value_codec.md R88). -/
def pairValue (b : Byte) : Nat := 10 * hiNibble b + loNibble b

/-- `p(d[0]) + 100 · p(d[1]) + 100^2 · p(d[2]) + …`: least significant digit pair first (41_value_codec.md R89). -/
def bcdValue : List Byte → Nat
  | [] => 0
  | b :: bs => pairValue b + 100 * bcdValue bs

/-- `decode_frequency(d)` (41_value_codec.md R91): the pair `(bad, v)`. -/
def decodeFrequency (d : List Byte) : Bool × Word :=
  if d.all bcdValid then (false, BitVec.ofNat 32 (bcdValue d)) else (true, 0)

/-- The digit pair of value `q ≤ 99` as a BCD byte (41_value_codec.md R92). -/
def encodePair (q : Nat) : Byte := BitVec.ofNat 8 (q / 10 * 16 + q % 10)

/-- `encode_frequency(v)` (41_value_codec.md R92). Not an operation of the block: it defines the round trip. -/
def encodeFrequency (v : Nat) : List Byte :=
  (List.range freqDataSize).map (fun j => encodePair (v / 100 ^ j % 100))

/-- `decode_mode(m)` (41_value_codec.md R94): 0 = Unknown where `MODE_TABLE` does not define `m` (R95). -/
def decodeMode (c : Config) (m : Byte) : Byte := (c.modeTable.lookup m).getD 0

/-- The 1-based position, counted from `i`, of the first entry whose inclusive bounds hold `v`; 0 where there is none
(42_band_mapper.md R101). -/
def bandScan (v : Word) : Nat → List BandRange → Nat
  | _, [] => 0
  | i, r :: rest => if r.low ≤ v ∧ v ≤ r.high then i else bandScan v (i + 1) rest

/-- `band_for(v)` (42_band_mapper.md R101). -/
def bandFor (c : Config) (v : Word) : Byte := BitVec.ofNat 8 (bandScan v 1 c.bandTable)

end Sys2Proof.Machine
end

