-- ==== Sys2Proof/Machine/Ops.lean ====
section
/-! DEFINITION. The named operations over the state: reading and writing the records, the output records, raising a
frame error, and the evaluation of the conflict monitor. There is no memory (10_state.md R30), and no return from an
error: "There is no return-from-error step, no handler and no nesting" (60_exceptions.md R148). -/

namespace Sys2Proof.Machine

/-- The outcome of an operation of the block. -/
abbrev Result := Host.Outcome State Fault Refusal

/-- The record `ST[k]`. -/
def State.station (s : State) : StationId → Station
  | .one => s.st1
  | .two => s.st2

/-- `ST[k] <- st`. -/
def State.withStation (s : State) : StationId → Station → State
  | .one, st => { s with st1 := st }
  | .two, st => { s with st2 := st }

/-- `MON <- m`. -/
def State.withMon (s : State) (m : Monitor) : State := { s with mon := m }

/-- `ASM[l] <- a`. -/
def State.withAsm (s : State) (l : Nat) (a : Assembler) : State := { s with asms := s.asms.set l a }

/-- The operation's time operand (00_scope.md R12; log 3). -/
def State.withNow (s : State) (t : Time) : State := { s with now := t }

/-- The operation's output record (10_state.md R32; log 4). -/
def State.withOut (s : State) (o : Output) : State := { s with out := o }

/-- The host operations still to come (log 2). -/
def State.withPending (s : State) (ops : List HostOp) : State := { s with pending := ops }

/-- `status(IGNORED, station = k)` (43_station_processor.md R115). -/
def ignoredOut (k : StationId) : Output :=
  { Output.zero with status := .ignored, station := stationCode k }

/-- `status(FREQ, station = k, freq = v, band = nb, event = ev)` (43_station_processor.md R111). -/
def freqOut (k : StationId) (v : Word) (nb : Byte) (ev : Event) : Output :=
  { Output.zero with status := .freq, station := stationCode k, freq := v, band := nb, event := ev }

/-- `status(MODE, station = k, mode = mc)` (43_station_processor.md R114). -/
def modeOut (k : StationId) (mc : Byte) : Output :=
  { Output.zero with status := .mode, station := stationCode k, mode := mc }

/-- `status(NONE, event = ev)` (45_interface_ops.md R134). -/
def eventOut (ev : Event) : Output := { Output.zero with event := ev }

/-- The output of a frame error: its code, and the station id for BAD_ENCODING (60_exceptions.md R145). -/
def errorOut (e : FrameError) (station : BitVec 2) : Output :=
  { Output.zero with status := errorStatus e, station := station }

/-- `raise FrameError(code)` (00_scope.md R12, 60_exceptions.md R146): the frame is discarded, no station and no
monitor field is written, the code is reported, and the next operation is processed normally. -/
def raiseFrameError (e : FrameError) (station : BitVec 2) (s : State) : Result :=
  .next (s.withOut (errorOut e station))

/-- The transition of the monitor (44_conflict_monitor.md R122 to R124, R128), from whether the bands conflict and whether
a band changed: the new record and the event, or none where `MON.mstate` is 3. -/
def monitorNext (c : Config) (conflict changed : Bool) (now : Time) (m : Monitor) : Option (Monitor × Event) :=
  match m.mstate, conflict with
  | .clear, true => some ({ mstate := .holding, since := now }, .noEvent)
  | .clear, false => some (m, .noEvent)
  | .holding, false => some ({ m with mstate := .clear }, .noEvent)
  | .holding, true =>
    if changed then some ({ m with since := now }, .noEvent)
    else if holdExpired c now m.since then some ({ m with mstate := .alerting }, .raise)
    else some (m, .noEvent)
  | .alerting, false => some ({ m with mstate := .clear }, .clear)
  | .alerting, true => some (m, .noEvent)
  | .reserved, _ => none

/-- `evaluate(now, changed)` (44_conflict_monitor.md R128), with the operation's `now`, on the bands as they stand
(20_memory.md R45): the state and the event, or none where `MON.mstate` is 3. -/
def evaluate (changed : Bool) (s : State) : Option (State × Event) :=
  (monitorNext s.cfg (conflicts s.cfg s.st1.band s.st2.band) changed s.now s.mon).map
    (fun r => (s.withMon r.1, r.2))

end Sys2Proof.Machine
end

