-- ==== Sys2Proof/Machine/Freq.lean ====
section
/-! DEFINITION. The frequency commands (43_station_processor.md R109 to R111). -/

namespace Sys2Proof.Machine

/-- The update of a decoded frequency `v` (43_station_processor.md R111): a band that does not change writes nothing; a
changed band is stored with its time, and the monitor is evaluated after that. -/
def updateBand (k : StationId) (v : Word) (s : State) : Result :=
  let nb := bandFor s.cfg v
  if nb = (s.station k).band then .next (s.withOut (freqOut k v nb .noEvent))
  else
    match evaluate true (s.withStation k { s.station k with band := nb, lastChange := s.now }) with
    | some (s', ev) => .next (s'.withOut (freqOut k v nb ev))
    | none => .refused .unreachableState

/-- `apply_freq(k, data, D, now)` (43_station_processor.md R111). -/
def applyFreq (k : StationId) (data : List Byte) (s : State) : Result :=
  if data.length = 0 then .next (s.withOut (ignoredOut k))
  else if data.length ≠ freqDataSize then raiseFrameError .badEncoding (stationCode k) s
  else if (decodeFrequency data).1 then raiseFrameError .badEncoding (stationCode k) s
  else updateBand k (decodeFrequency data).2 s

/-- SEND_FREQ (43_station_processor.md R109). -/
def execSendFreq (src : Party) (data : List Byte) (s : State) : Result :=
  applyFreq (stationOf s.cfg src) data s

/-- QUERY_FREQ (43_station_processor.md R110). -/
def execQueryFreq (src : Party) (data : List Byte) (s : State) : Result :=
  applyFreq (stationOf s.cfg src) data s

end Sys2Proof.Machine
end

