-- ==== Sys2Proof/Machine/Mode.lean ====
section
/-! DEFINITION. The mode commands (43_station_processor.md R112 to R114). -/

namespace Sys2Proof.Machine

/-- The update of a mode byte with its filter, or with none (43_station_processor.md R114, 10_state.md R18). -/
def updateMode (k : StationId) (m : Byte) (filter : Option Byte) (s : State) : Result :=
  let mc := decodeMode s.cfg m
  .next ((s.withStation k
    { s.station k with mode := mc, filter := filter.getD 0, filterValid := filter.isSome }).withOut (modeOut k mc))

/-- `apply_mode(k, data, D)` (43_station_processor.md R114). -/
def applyMode (k : StationId) (data : List Byte) (s : State) : Result :=
  match data with
  | [] => .next (s.withOut (ignoredOut k))
  | [m] => updateMode k m none s
  | [m, f] => updateMode k m (some f) s
  | _ :: _ :: _ :: _ => raiseFrameError .badEncoding (stationCode k) s

/-- SEND_MODE (43_station_processor.md R112). -/
def execSendMode (src : Party) (data : List Byte) (s : State) : Result :=
  applyMode (stationOf s.cfg src) data s

/-- QUERY_MODE (43_station_processor.md R113). -/
def execQueryMode (src : Party) (data : List Byte) (s : State) : Result :=
  applyMode (stationOf s.cfg src) data s

end Sys2Proof.Machine
end

