-- ==== Sys2Proof/Machine/Other.lean ====
section
/-! DEFINITION. Every other command code (43_station_processor.md R115). -/

namespace Sys2Proof.Machine

/-- OTHER (43_station_processor.md R115): IGNORED, no operand used, nothing written. -/
def execOther (src : Party) (s : State) : Result :=
  .next (s.withOut (ignoredOut (stationOf s.cfg src)))

end Sys2Proof.Machine
end

