-- ==== Sys2Proof/Machine/Dispatch.lean ====
section
/-! DEFINITION. Dispatch on the command (43_station_processor.md R108). -/

namespace Sys2Proof.Machine

/-- The meaning of a validated command, at the time `s.now` of the operation that delivered its frame (43_station_processor.md R118,
after validation). -/
def exec (i : Instr) (s : State) : Host.Outcome State Fault Refusal :=
  match i with
  | .sendFreq _ src data => Sys2Proof.Machine.execSendFreq src data s
  | .sendMode _ src data => Sys2Proof.Machine.execSendMode src data s
  | .queryFreq _ src data => Sys2Proof.Machine.execQueryFreq src data s
  | .queryMode _ src data => Sys2Proof.Machine.execQueryMode src data s
  | .other _ src _ _ => Sys2Proof.Machine.execOther src s

end Sys2Proof.Machine
end

