-- ==== Sys2Proof/Machine/Process.lean ====
section
/-! DEFINITION. Frame processing (43_station_processor.md R106, R118). -/

namespace Sys2Proof.Machine

/-- `process(f, L, now)` (43_station_processor.md R118): validate, then dispatch. A frame the validator rejects reports its
code with every other field 0. -/
def processFrame (f : List Byte) (s : State) : Result :=
  match decode s.cfg f with
  | .ok i => exec i s
  | .err e => raiseFrameError e 0 s

end Sys2Proof.Machine
end

