-- ==== Sys2Proof/Machine/Assembly.lean ====
section
/-! DEFINITION. The assembler, which cuts frames out of a link's bytes (40_frame_decoder.md R77 to R85). -/

namespace Sys2Proof.Machine

/-- What one byte makes of an assembler: nothing to report, a frame abandoned or overflowed (BAD_FRAMING), or a
complete frame. -/
inductive AsmResult where
  | quiet
  | badFraming
  | frame (f : List Byte)
  deriving DecidableEq, Repr

/-- A byte in HUNT (40_frame_decoder.md R78). -/
def huntByte (b : Byte) (a : Assembler) : Assembler :=
  if b = startOfMsg then { astate := .sync1, cnt := 1, buf := a.buf.set 0 startOfMsg } else a

/-- `assemble(l, b, now)` on the record `ASM[l]` (40_frame_decoder.md R84): the new record and what it reports, or none
where `astate` is 3. -/
def assembleByte (maxLen : Nat) (b : Byte) (a : Assembler) : Option (Assembler × AsmResult) :=
  match a.astate with
  | .hunt => some (huntByte b a, .quiet)
  | .sync1 =>
    if b = startOfMsg then some ({ astate := .body, cnt := 2, buf := a.buf.set 1 startOfMsg }, .quiet)
    else some ({ a with astate := .hunt, cnt := 0 }, .quiet)
  | .body =>
    if a.cnt = maxLen then some (huntByte b { a with astate := .hunt, cnt := 0 }, .badFraming)
    else if b = startOfMsg then some ({ astate := .sync1, cnt := 1, buf := a.buf.set 0 startOfMsg }, .badFraming)
    else if b = endOfMsg then
      some ({ astate := .hunt, cnt := 0, buf := a.buf.set a.cnt endOfMsg },
        .frame ((a.buf.set a.cnt endOfMsg).take (a.cnt + 1)))
    else some ({ a with cnt := a.cnt + 1, buf := a.buf.set a.cnt b }, .quiet)
  | .reserved => none

/-- The output, or the processing of a complete frame, after the assembler's record is written (40_frame_decoder.md
R81 to R84). -/
def finishAssembly (r : AsmResult) (s : State) : Result :=
  match r with
  | .quiet => .next (s.withOut Output.zero)
  | .badFraming => raiseFrameError .badFraming 0 s
  | .frame f => processFrame f s

end Sys2Proof.Machine
end

