-- ==== Sys2Proof/Machine/HostOps.lean ====
section
/-! DEFINITION. The four host operations and the step function of 45_interface_ops.md (R131 to R138). -/

namespace Sys2Proof.Machine

/-- FEED (45_interface_ops.md R132): one byte of link `l`. -/
def feedOp (l : Nat) (b : Byte) (s : State) : Result :=
  if s.cfg.nLinks ≤ l then .refused .badLink
  else
    match s.asms[l]? with
    | none => .refused .unreachableState
    | some a =>
      match assembleByte s.cfg.maxFrameLen b a with
      | none => .refused .unreachableState
      | some (a', r) => finishAssembly r (s.withAsm l a')

/-- FRAME (45_interface_ops.md R133): bypasses every assembler. -/
def frameOp (f : List Byte) (s : State) : Result := processFrame f s

/-- TICK (45_interface_ops.md R134): a poll of the monitor. -/
def tickOp (s : State) : Result :=
  match evaluate false s with
  | some (s', ev) => .next (s'.withOut (eventOut ev))
  | none => .refused .unreachableState

/-- RESET (45_interface_ops.md R135, 70_reset_and_hazards.md R155): every state field at its reset value, the output
all zero, no event. The configuration and the operations to come are not the block's state (logs 1, 2). -/
def resetOp (s : State) : State :=
  { cfg := s.cfg
    wasReset := true
    st1 := Station.reset
    st2 := Station.reset
    mon := Monitor.reset
    asms := List.replicate s.cfg.nLinks (Assembler.reset s.cfg)
    now := 0
    out := Output.zero
    pending := s.pending }

/-- The cases of the step function (45_interface_ops.md R137): the operation's `now` operand is the one the rules
read. -/
def applyOp (op : HostOp) (s : State) : Result :=
  match op with
  | .feed l b t => feedOp l b (s.withNow t)
  | .frame f t => frameOp f (s.withNow t)
  | .tick t => tickOp (s.withNow t)
  | .reset => .next (resetOp s)

/-- A field of the state holds its reserved encoding 3 (45_interface_ops.md R138; log 6). -/
def State.hasReservedCode (s : State) : Bool :=
  decide (s.mon.mstate = .reserved) || s.asms.any (fun a => decide (a.astate = .reserved))

/-- `step(cfg, s, op)` (45_interface_ops.md R137), with the refusals of R138: before the first RESET only RESET is
accepted; after it no operation is accepted in a state that no step produces (log 6). -/
def hostStep (op : HostOp) (s : State) : Result :=
  if s.wasReset = false ∧ op ≠ .reset then .refused .beforeReset
  else if s.wasReset && s.hasReservedCode then .refused .unreachableState
  else applyOp op s

/-- One step of the model: the next pending operation is applied. A configuration that is not well-formed gives no step
(00_scope.md R8; log 13); with no operation pending the block is idle and keeps all its state (60_exceptions.md R154;
log 2). -/
def stepPending (s : State) : Result :=
  if s.cfg.wf then
    match s.pending with
    | [] => .next s
    | op :: rest => hostStep op (s.withPending rest)
  else .refused .configNotWellFormed

end Sys2Proof.Machine
end

