-- ==== Sys2Proof/Machine/Ports.lean ====
section
/-! DEFINITION. The read ports (10_state.md R29, 45_interface_ops.md R136). A sample is no operation and no step: it reads
the state and changes nothing (20_memory.md R42). -/

namespace Sys2Proof.Machine

/-- The read ports of 10_state.md R29. -/
inductive Port where
  | band (k : StationId)
  | mode (k : StationId)
  | filter (k : StationId)
  | filterValid (k : StationId)
  | lastChange (k : StationId)
  | mstate
  | alert
  deriving DecidableEq, Repr

/-- The width of a port, in bits (10_state.md R29). -/
def portWidth : Port → Nat
  | .band _ => 8
  | .mode _ => 8
  | .filter _ => 8
  | .filterValid _ => 1
  | .lastChange _ => 32
  | .mstate => 2
  | .alert => 1

/-- The value a port shows (10_state.md R29). -/
def portValue (s : State) : (p : Port) → BitVec (portWidth p)
  | .band k => (s.station k).band
  | .mode k => (s.station k).mode
  | .filter k => (s.station k).filter
  | .filterValid k => BitVec.ofBool (s.station k).filterValid
  | .lastChange k => (s.station k).lastChange
  | .mstate => s.mon.mstate.code
  | .alert => BitVec.ofBool s.alert

/-- A sample of a read port (45_interface_ops.md R136): refused before the first RESET (10_state.md R34) and where there
is no instance (00_scope.md R8). -/
def samplePort (p : Port) (s : State) : Except Refusal (BitVec (portWidth p)) :=
  if s.cfg.wf then
    if s.wasReset then .ok (portValue s p) else .error .beforeReset
  else .error .configNotWellFormed

end Sys2Proof.Machine
end

