-- ==== Sys2Proof/Machine/Step.lean ====
section
/-! DEFINITION. The step of the machine, and where a frame stands for the next step to run it. -/

namespace Sys2Proof.Machine

/-- One step: the next host operation (45_interface_ops.md R137). -/
def step (s : State) : Host.Outcome State Fault Refusal := stepPending s

/-- `s` with the frame of a table word as its next host operation, a FRAME at the time `s` holds (log 9): the very next
step processes that frame. It stands for the host applying the operation (log 2). -/
def State.withFetchWord (s : State) (nbits w : Nat) : State :=
  s.withPending (.frame (tableFrame nbits w) s.now :: s.pending)

end Sys2Proof.Machine
end

