-- ==== Sys2Proof/Safety.lean ====
section
/-! DEFINITION. What counts as a good state, a safe step and a lawful sequence of operations, in the terms the statements
use. -/

namespace Sys2Proof.Machine

/-- Not a marker byte. -/
def notMarker (b : Byte) : Bool := b != startOfMsg && b != endOfMsg

/-- What a FEED leaves an assembler as (40_frame_decoder.md R78 to R84, 10_state.md R25): `MAX_FRAME_LEN` cells; no
valid byte in HUNT; one start marker in SYNC1; in BODY two start markers and then no marker, at most
`MAX_FRAME_LEN` bytes. -/
def Assembler.wf (maxLen : Nat) (a : Assembler) : Bool :=
  decide (a.buf.length = maxLen) &&
    match a.astate with
    | .hunt => decide (a.cnt = 0)
    | .sync1 => decide (a.cnt = 1) && decide (a.buf[0]? = some startOfMsg)
    | .body =>
      decide (2 ≤ a.cnt) && decide (a.cnt ≤ maxLen) && decide (a.buf[0]? = some startOfMsg)
        && decide (a.buf[1]? = some startOfMsg) && ((a.buf.take a.cnt).drop 2).all notMarker
    | .reserved => false

/-- What the commands leave a station record as: a band code of the table or 0 (10_state.md R16), a mode code of
`MODE_TABLE` or 0 (R17), and a filter byte of 0 where it is not valid (R18). -/
def Station.wf (c : Config) (st : Station) : Bool :=
  decide (st.band.toNat ≤ c.bandTable.length)
    && (st.mode == 0 || c.modeTable.any (fun e => e.2 == st.mode))
    && (st.filterValid || st.filter == 0)

/-- The monitor agrees with the bands (44_conflict_monitor.md R129): it is out of CLEAR exactly when the two stations'
bands conflict. -/
def State.coherent (s : State) : Bool :=
  (s.mon.mstate != .clear) == conflicts s.cfg s.st1.band s.st2.band

/-- The fields of the block after a RESET hold legal values: a well-formed configuration, one assembler a link, no
reserved code. -/
def State.wf (s : State) : Bool :=
  s.cfg.wf && s.wasReset && decide (s.asms.length = s.cfg.nLinks)
    && s.asms.all (Assembler.wf s.cfg.maxFrameLen)
    && Station.wf s.cfg s.st1 && Station.wf s.cfg s.st2
    && (s.mon.mstate != .reserved)

/-- The invariant of the block: legal fields, and a monitor that agrees with the bands. -/
def State.inv (s : State) : Bool := s.wf && s.coherent

/-- Every FEED to come names a link that exists (45_interface_ops.md R138). -/
def linksOk (n : Nat) : List HostOp → Bool
  | [] => true
  | .feed l _ _ :: rest => decide (l < n) && linksOk n rest
  | .frame _ _ :: rest => linksOk n rest
  | .tick _ :: rest => linksOk n rest
  | .reset :: rest => linksOk n rest

/-- A safe step: it ends in a next state. -/
def stepsOn (s : State) : Prop := ∃ t, step s = .next t

/-- What 10_state.md R33 says of the state `t` after a RESET of `s` (`buf` unspecified), with an all-zero output (R135)
and the operations `rest` left to come. -/
def afterReset (s : State) (rest : List HostOp) (t : State) : Prop :=
  t.wasReset = true ∧ t.pending = rest ∧ t.cfg = s.cfg ∧
  (∀ k, (t.station k).band = 0 ∧ (t.station k).mode = 0 ∧ (t.station k).filter = 0 ∧
    (t.station k).filterValid = false ∧ (t.station k).lastChange = 0) ∧
  t.mon.mstate = .clear ∧ t.mon.since = 0 ∧ t.alert = false ∧
  t.asms.length = s.cfg.nLinks ∧ (∀ a ∈ t.asms, a.astate = .hunt ∧ a.cnt = 0) ∧ t.out = Output.zero

/-- Two states that differ, if at all, in their assemblers. -/
def sameButAssemblers (s t : State) : Prop := { s with asms := t.asms } = t

/-- The step function accepts the operation `op`, which is next, with `rest` after it: a well-formed configuration, a
RESET behind it, no reserved code (45_interface_ops.md R137, R138). -/
def opReady (s : State) (op : HostOp) (rest : List HostOp) : Prop :=
  s.cfg.wf = true ∧ s.wasReset = true ∧ s.hasReservedCode = false ∧ s.pending = op :: rest

/-- The state in which the rules of a timed operation begin: it is taken from the host's sequence and its `now` is the
current time. -/
def opStart (s : State) (t : Time) (rest : List HostOp) : State := (s.withPending rest).withNow t

/-- A FEED of `b` at time `t` on the existing link `l`, whose assembler is `a`, is next. -/
def feedReady (s : State) (l : Nat) (b : Byte) (t : Time) (rest : List HostOp) (a : Assembler) : Prop :=
  opReady s (.feed l b t) rest ∧ l < s.cfg.nLinks ∧ s.asms[l]? = some a

/-- The FEED operations that give link `l` the bytes of `f` in transmission order, all at time `t` (`FEEDS` of
30_encoding.md R62). -/
def feeds (l : Nat) (t : Time) (f : List Byte) : List HostOp := f.map (fun b => .feed l b t)

end Sys2Proof.Machine
end

