-- ==== Sys2Proof/Certificates/Slice0/Obligations.lean ====
section
/-! DEFINITION. The statements about the CI-V band-conflict block, for the provers. -/

open Sys2Proof Sys2Proof.Machine

/-! ## Configuration and encodings -/

/-- The check on a configuration says what 00_scope.md R8 and 42_band_mapper.md R99 say; where it fails no
step answers a next state; and no step changes the configuration. -/
def Obligations.ConfigCheckSaysRule : Prop :=
  (∀ c : Config, c.wf = true ↔
    (c.radioAddr ≠ 0x00 ∧ c.radioAddr ≠ 0xFD ∧ c.radioAddr ≠ 0xFE) ∧
    10 ≤ c.maxFrameLen ∧ 1 ≤ c.nLinks ∧
    ((∀ r ∈ c.bandTable, r.low ≤ r.high) ∧
      (∀ (i : Nat) (r r' : BandRange), c.bandTable[i]? = some r → c.bandTable[i + 1]? = some r' → r.high < r'.low) ∧
      1 ≤ c.bandTable.length ∧ c.bandTable.length ≤ 255) ∧
    (∀ e ∈ c.modeTable, 1 ≤ e.2.toNat ∧ e.2.toNat ≤ 255) ∧
    (∀ p ∈ c.conflictPairs, (1 ≤ p.1.toNat ∧ p.1.toNat ≤ c.bandTable.length) ∧
      (1 ≤ p.2.toNat ∧ p.2.toNat ≤ c.bandTable.length)) ∧
    (1 ≤ c.holdTime.toNat ∧ c.holdTime.toNat ≤ 2 ^ 31 - 1)) ∧
  (∀ s t : State, s.cfg.wf = false → step s ≠ .next t) ∧
  (∀ s t : State, step s = .next t → t.cfg = s.cfg)

/-- Decoding the frame of a command gives the command back, for every command the configuration admits. -/
def Obligations.DecodeOfEncode : Prop :=
  ∀ (c : Config) (i : Instr), c.wf = true → i.wf c = true → decode c (encode c i) = .ok i

/-- A frame the validator accepts is the frame of the command it answers, and that command is well-formed: no two
commands share a frame, and no accepted frame has a bit the command does not hold. -/
def Obligations.EncodeOfDecode : Prop :=
  ∀ (c : Config) (f : List Byte) (i : Instr), decode c f = .ok i → encode c i = f ∧ i.wf c = true

/-- 40_frame_decoder.md R67 to R74: each check that fails gives its code, and the first that fails decides; when every
check passes, the validator answers `ok` with the fields of the frame. -/
def Obligations.ValidatorFirstFailedCheckDecides : Prop :=
  ∀ (c : Config) (f : List Byte),
    (f.length < 6 → decode c f = .err .tooShort) ∧
    (6 ≤ f.length → c.maxFrameLen < f.length → decode c f = .err .badFraming) ∧
    (6 ≤ f.length → f.length ≤ c.maxFrameLen →
      (f[0]? ≠ some 0xFE ∨ f[1]? ≠ some 0xFE ∨ f[2]? = some 0xFE ∨ f[f.length - 1]? ≠ some 0xFD) →
      decode c f = .err .badFraming) ∧
    (6 ≤ f.length → f.length ≤ c.maxFrameLen →
      (f[0]? = some 0xFE ∧ f[1]? = some 0xFE ∧ f[2]? ≠ some 0xFE ∧ f[f.length - 1]? = some 0xFD) →
      ((f[2]? ≠ some 0x00 ∧ f[2]? ≠ some c.radioAddr) ∨ (f[3]? ≠ some 0x00 ∧ f[3]? ≠ some c.radioAddr)) →
      decode c f = .err .badAddress) ∧
    (6 ≤ f.length → f.length ≤ c.maxFrameLen →
      (f[0]? = some 0xFE ∧ f[1]? = some 0xFE ∧ f[2]? ≠ some 0xFE ∧ f[f.length - 1]? = some 0xFD) →
      (f[2]? = some 0x00 ∨ f[2]? = some c.radioAddr) → (f[3]? = some 0x00 ∨ f[3]? = some c.radioAddr) →
      ∃ i, decode c f = .ok i ∧ f[2]? = some (addrOf c i.dest) ∧ f[3]? = some (addrOf c i.src) ∧
        f[4]? = some i.cmd ∧ i.data.length = f.length - 6 ∧
        ∀ j, j < f.length - 6 → i.data[j]? = f[5 + j]?)

/-- Five frames written out from 30_encoding.md R50 and R54, one for each command, decode to what they stand for in the
test configuration. -/
def Obligations.SpecFramesDecode : Prop :=
  decode Config.test [0xFE, 0xFE, 0x94, 0x00, 0x00, 0x00, 0x40, 0x07, 0x14, 0xFD]
      = .ok (.sendFreq .radio .controller [0x00, 0x40, 0x07, 0x14]) ∧
  decode Config.test [0xFE, 0xFE, 0x94, 0x00, 0x01, 0x03, 0xFD] = .ok (.sendMode .radio .controller [0x03]) ∧
  decode Config.test [0xFE, 0xFE, 0x00, 0x94, 0x03, 0x00, 0x00, 0x07, 0x14, 0xFD]
      = .ok (.queryFreq .controller .radio [0x00, 0x00, 0x07, 0x14]) ∧
  decode Config.test [0xFE, 0xFE, 0x00, 0x94, 0x04, 0x01, 0x02, 0xFD]
      = .ok (.queryMode .controller .radio [0x01, 0x02]) ∧
  decode Config.test [0xFE, 0xFE, 0x00, 0x94, 0x02, 0xFD] = .ok (.other .controller .radio 0x02 [])

/-- The numbers of the coded fields: `status` (30_encoding.md R63), `event` (R64), and the codes of `MON.mstate` and
`ASM[l].astate` (10_state.md R21, R24). -/
def Obligations.FieldCodesAsListed : Prop :=
  [Status.noFrame, .freq, .mode, .ignored, .tooShort, .badFraming, .badAddress, .badEncoding].map Status.code
      = [0, 1, 2, 3, 4, 5, 6, 7] ∧
  [Event.noEvent, .raise, .clear].map Event.code = [0, 1, 2] ∧
  [MState.clear, .holding, .alerting, .reserved].map MState.code = [0, 1, 2, 3] ∧
  [AState.hunt, .sync1, .body, .reserved].map AState.code = [0, 1, 2, 3] ∧
  [StationId.one, .two].map stationCode = [1, 2]

/-! ## The value decoders -/

/-- 41_value_codec.md R87 to R90: `bad` exactly where a nibble is above 9; else the sum of the digit pairs by their
weights, at most 99,999,999, which the 32-bit result holds exactly. -/
def Obligations.FrequencyDecodeValue : Prop :=
  ∀ d0 d1 d2 d3 : Byte,
    let p : Byte → Nat := fun b => 10 * (b.toNat / 16) + b.toNat % 16
    let ok : Byte → Prop := fun b => b.toNat / 16 ≤ 9 ∧ b.toNat % 16 ≤ 9
    (¬(ok d0 ∧ ok d1 ∧ ok d2 ∧ ok d3) → decodeFrequency [d0, d1, d2, d3] = (true, 0)) ∧
    (ok d0 ∧ ok d1 ∧ ok d2 ∧ ok d3 →
      (decodeFrequency [d0, d1, d2, d3]).1 = false ∧
      (decodeFrequency [d0, d1, d2, d3]).2.toNat = p d0 + 100 * p d1 + 100 ^ 2 * p d2 + 100 ^ 3 * p d3 ∧
      p d0 + 100 * p d1 + 100 ^ 2 * p d2 + 100 ^ 3 * p d3 ≤ 99999999)

/-- The round trip of 41_value_codec.md R92, both ways: on the valid inputs the frequency decoder is a bijection onto
0 .. 99,999,999. -/
def Obligations.FrequencyRoundTrip : Prop :=
  (∀ v : Nat, v ≤ 99999999 → (encodeFrequency v).length = 4 ∧
    decodeFrequency (encodeFrequency v) = (false, BitVec.ofNat 32 v)) ∧
  (∀ (d : List Byte) (v : Word), d.length = 4 → decodeFrequency d = (false, v) → encodeFrequency v.toNat = d)

/-- 41_value_codec.md R94: a mode byte that `MODE_TABLE` defines gives its code, every other gives 0. A map lists no
byte twice. -/
def Obligations.ModeLookup : Prop :=
  ∀ (c : Config) (m : Byte), (c.modeTable.map Prod.fst).Nodup →
    (∀ code, (m, code) ∈ c.modeTable → decodeMode c m = code) ∧
    ((∀ code, (m, code) ∉ c.modeTable) → decodeMode c m = 0)

/-- 42_band_mapper.md R100: the code is the 1-based position of the entry that holds the frequency, both bounds
inclusive, and 0 where none does. -/
def Obligations.BandLookup : Prop :=
  ∀ (c : Config) (v : Word), bandTableWf c.bandTable = true →
    (∀ (i : Nat) (r : BandRange), c.bandTable[i]? = some r → r.low ≤ v → v ≤ r.high →
      (bandFor c v).toNat = i + 1) ∧
    ((∀ r ∈ c.bandTable, ¬(r.low ≤ v ∧ v ≤ r.high)) → bandFor c v = 0)

/-! ## The commands -/

/-- 43_station_processor.md R109 to R111: the result of SEND_FREQ and of QUERY_FREQ for every data area. The
operation's time operand is `s.now` (log 3). -/
def Obligations.FreqCommandResult : Prop :=
  ∀ (i : Instr) (dest src : Party) (data : List Byte) (s : State),
    (i = .sendFreq dest src data ∨ i = .queryFreq dest src data) → s.mon.mstate ≠ .reserved →
    let k := stationOf s.cfg src
    let v : Word := (decodeFrequency data).2
    let nb := bandFor s.cfg v
    (data.length = 0 →
      exec i s = .next (s.withOut { Output.zero with status := .ignored, station := stationCode k })) ∧
    (data.length ≠ 0 → data.length ≠ 4 →
      exec i s = .next (s.withOut { Output.zero with status := .badEncoding, station := stationCode k })) ∧
    (data.length = 4 → (decodeFrequency data).1 = true →
      exec i s = .next (s.withOut { Output.zero with status := .badEncoding, station := stationCode k })) ∧
    (data.length = 4 → (decodeFrequency data).1 = false → nb = (s.station k).band →
      exec i s = .next (s.withOut { Output.zero with
        status := .freq, station := stationCode k, freq := v, band := nb })) ∧
    (data.length = 4 → (decodeFrequency data).1 = false → nb ≠ (s.station k).band →
      ∃ s' ev,
        evaluate true (s.withStation k { s.station k with band := nb, lastChange := s.now }) = some (s', ev) ∧
        exec i s = .next (s'.withOut { Output.zero with
          status := .freq, station := stationCode k, freq := v, band := nb, event := ev }))

/-- 43_station_processor.md R112 to R114: the result of SEND_MODE and of QUERY_MODE for every data area. -/
def Obligations.ModeCommandResult : Prop :=
  ∀ (i : Instr) (dest src : Party) (data : List Byte) (s : State),
    (i = .sendMode dest src data ∨ i = .queryMode dest src data) →
    let k := stationOf s.cfg src
    (data.length = 0 →
      exec i s = .next (s.withOut { Output.zero with status := .ignored, station := stationCode k })) ∧
    (∀ m, data = [m] →
      exec i s = .next ((s.withStation k { s.station k with
          mode := decodeMode s.cfg m, filter := 0, filterValid := false }).withOut
        { Output.zero with status := .mode, station := stationCode k, mode := decodeMode s.cfg m })) ∧
    (∀ m f, data = [m, f] →
      exec i s = .next ((s.withStation k { s.station k with
          mode := decodeMode s.cfg m, filter := f, filterValid := true }).withOut
        { Output.zero with status := .mode, station := stationCode k, mode := decodeMode s.cfg m })) ∧
    (3 ≤ data.length →
      exec i s = .next (s.withOut { Output.zero with status := .badEncoding, station := stationCode k }))

/-- 43_station_processor.md R115: OTHER is IGNORED whatever its code and its data, and writes nothing. -/
def Obligations.OtherCommandIgnored : Prop :=
  ∀ (dest src : Party) (cmd : Byte) (data : List Byte) (s : State),
    exec (.other dest src cmd data) s =
      .next (s.withOut { Output.zero with status := .ignored, station := stationCode (stationOf s.cfg src) })

/-- The frame of SEND_FREQ and QUERY_FREQ. Written at most: the band and the time of the source's own station, the
monitor, and the output; and where the band stays, the output alone. The operation's time operand is `s.now` (log 3). -/
def Obligations.FreqCommandFrame : Prop :=
  ∀ (i : Instr) (dest src : Party) (data : List Byte) (s t : State),
    (i = .sendFreq dest src data ∨ i = .queryFreq dest src data) → exec i s = .next t →
    let k := stationOf s.cfg src
    (∀ j, j ≠ k → t.station j = s.station j) ∧
    (t.station k).mode = (s.station k).mode ∧ (t.station k).filter = (s.station k).filter ∧
    (t.station k).filterValid = (s.station k).filterValid ∧
    t.cfg = s.cfg ∧ t.wasReset = s.wasReset ∧ t.asms = s.asms ∧ t.now = s.now ∧ t.pending = s.pending ∧
    ((t.station k).band = (s.station k).band → t = s.withOut t.out) ∧
    ((t.station k).band ≠ (s.station k).band → (t.station k).lastChange = s.now)

/-- The frame of SEND_MODE and QUERY_MODE. Written at most: the mode, the filter and its valid bit of the source's own
station, and the output. -/
def Obligations.ModeCommandFrame : Prop :=
  ∀ (i : Instr) (dest src : Party) (data : List Byte) (s t : State),
    (i = .sendMode dest src data ∨ i = .queryMode dest src data) → exec i s = .next t →
    let k := stationOf s.cfg src
    (∀ j, j ≠ k → t.station j = s.station j) ∧
    (t.station k).band = (s.station k).band ∧ (t.station k).lastChange = (s.station k).lastChange ∧
    t.mon = s.mon ∧ t.cfg = s.cfg ∧ t.wasReset = s.wasReset ∧ t.asms = s.asms ∧ t.now = s.now ∧
    t.pending = s.pending

/-! ## Frames as operations -/

/-- A step runs the decoded command: with a FRAME next whose bytes decode to a command, the step is `exec` of that
command in the state the operation starts in. -/
def Obligations.StepRunsDecodedFrame : Prop :=
  ∀ (s : State) (f : List Byte) (t : Time) (rest : List HostOp) (i : Instr),
    opReady s (.frame f t) rest → decode s.cfg f = .ok i → step s = exec i (opStart s t rest)

/-- A FRAME whose bytes the validator rejects: its code is the output's one field that is not 0, and nothing of the
block is written (60_exceptions.md R145, R146). -/
def Obligations.StepReportsRejectedFrame : Prop :=
  ∀ (s : State) (f : List Byte) (t : Time) (rest : List HostOp) (e : FrameError),
    opReady s (.frame f t) rest → decode s.cfg f = .err e →
    step s = .next ((opStart s t rest).withOut { Output.zero with status := errorStatus e })

/-- 43_station_processor.md R116: a frame that ends in an error, and one that is IGNORED, writes no station and no
monitor field, however it is delivered. -/
def Obligations.ErrorWritesNoRecord : Prop :=
  ∀ (s t : State) (op : HostOp) (rest : List HostOp), s.pending = op :: rest → op ≠ .reset → step s = .next t →
    (t.out.status = .tooShort ∨ t.out.status = .badFraming ∨ t.out.status = .badAddress ∨
      t.out.status = .badEncoding ∨ t.out.status = .ignored) →
    t.st1 = s.st1 ∧ t.st2 = s.st2 ∧ t.mon = s.mon

/-- 43_station_processor.md R117: a frame that validates, however it is delivered, writes at most the record of its own
station, and the monitor only through an evaluation, after a change of that station's band, on the bands it leaves. -/
def Obligations.FrameWritesOwnStationOnly : Prop :=
  ∀ (s t : State) (f : List Byte) (i : Instr), decode s.cfg f = .ok i → processFrame f s = .next t →
    let k := stationOf s.cfg i.src
    (∀ j, j ≠ k → t.station j = s.station j) ∧ t.asms = s.asms ∧
    (t.mon = s.mon ∨
      ((t.station k).band ≠ (s.station k).band ∧
        ∃ ev, monitorNext s.cfg (conflicts s.cfg t.st1.band t.st2.band) true s.now s.mon = some (t.mon, ev)))

/-- No operation but a RESET writes both station records; one that keeps a station's band keeps its time of last change;
and a band changes only by a FEED or a FRAME, whose own time operand is then the time of last change (10_state.md
§2). -/
def Obligations.LastChangeMarksBandChange : Prop :=
  ∀ (s t : State) (op : HostOp) (rest : List HostOp), s.pending = op :: rest → op ≠ .reset → step s = .next t →
    (t.st1 = s.st1 ∨ t.st2 = s.st2) ∧
    (∀ k, (t.station k).band = (s.station k).band → (t.station k).lastChange = (s.station k).lastChange) ∧
    (∀ k, (t.station k).band ≠ (s.station k).band →
      ∃ u, ((∃ f, op = .frame f u) ∨ (∃ l b, op = .feed l b u)) ∧ (t.station k).lastChange = u)

/-! ## The assembler -/

/-- 40_frame_decoder.md R78, R79: a byte in HUNT, and a byte in SYNC1. -/
def Obligations.FeedBeforeBody : Prop :=
  ∀ (s : State) (l : Nat) (b : Byte) (t : Time) (rest : List HostOp) (a : Assembler), feedReady s l b t rest a →
    (a.astate = .hunt → b = 0xFE →
      step s = .next (((opStart s t rest).withAsm l ⟨.sync1, 1, a.buf.set 0 0xFE⟩).withOut Output.zero)) ∧
    (a.astate = .hunt → b ≠ 0xFE → step s = .next ((opStart s t rest).withOut Output.zero)) ∧
    (a.astate = .sync1 → b = 0xFE →
      step s = .next (((opStart s t rest).withAsm l ⟨.body, 2, a.buf.set 1 0xFE⟩).withOut Output.zero)) ∧
    (a.astate = .sync1 → b ≠ 0xFE →
      step s = .next (((opStart s t rest).withAsm l ⟨.hunt, 0, a.buf⟩).withOut Output.zero))

/-- 40_frame_decoder.md R80, R81: in BODY with room, a byte that is no marker is stored, and a start marker abandons the
frame with BAD_FRAMING and is itself the first marker of a new one. -/
def Obligations.FeedInBody : Prop :=
  ∀ (s : State) (l : Nat) (b : Byte) (t : Time) (rest : List HostOp) (a : Assembler), feedReady s l b t rest a →
    a.astate = .body → a.cnt < s.cfg.maxFrameLen →
    (b ≠ 0xFE → b ≠ 0xFD →
      step s = .next (((opStart s t rest).withAsm l ⟨.body, a.cnt + 1, a.buf.set a.cnt b⟩).withOut Output.zero)) ∧
    (b = 0xFE →
      step s = .next (((opStart s t rest).withAsm l ⟨.sync1, 1, a.buf.set 0 0xFE⟩).withOut
        { Output.zero with status := .badFraming }))

/-- 40_frame_decoder.md R82: in BODY with room, an end marker completes the frame, the assembler is in HUNT, and the
valid bytes with the marker are processed at the operation's time. -/
def Obligations.FeedCompletesFrame : Prop :=
  ∀ (s : State) (l : Nat) (t : Time) (rest : List HostOp) (a : Assembler), feedReady s l 0xFD t rest a →
    a.astate = .body → a.cnt < s.cfg.maxFrameLen → a.buf.length = s.cfg.maxFrameLen →
    step s = processFrame (a.buf.take a.cnt ++ [0xFD])
      ((opStart s t rest).withAsm l ⟨.hunt, 0, a.buf.set a.cnt 0xFD⟩)

/-- 40_frame_decoder.md R83: in BODY with a full buffer any byte overflows it: BAD_FRAMING, and the byte is then handled
in HUNT. -/
def Obligations.FeedOverflows : Prop :=
  ∀ (s : State) (l : Nat) (b : Byte) (t : Time) (rest : List HostOp) (a : Assembler), feedReady s l b t rest a →
    a.astate = .body → a.cnt = s.cfg.maxFrameLen →
    (b = 0xFE → step s = .next (((opStart s t rest).withAsm l ⟨.sync1, 1, a.buf.set 0 0xFE⟩).withOut
      { Output.zero with status := .badFraming })) ∧
    (b ≠ 0xFE → step s = .next (((opStart s t rest).withAsm l ⟨.hunt, 0, a.buf⟩).withOut
      { Output.zero with status := .badFraming }))

/-- Every frame a well-formed assembler completes has its markers at its ends only, and a length that the validator's
framing checks pass (40_frame_decoder.md §2). -/
def Obligations.AssembledFramesAreFramed : Prop :=
  ∀ (maxLen : Nat) (b : Byte) (a a' : Assembler) (f : List Byte), a.wf maxLen = true →
    assembleByte maxLen b a = some (a', .frame f) →
    3 ≤ f.length ∧ f.length ≤ maxLen ∧ f[0]? = some 0xFE ∧ f[1]? = some 0xFE ∧ f[f.length - 1]? = some 0xFD ∧
    (∀ j x, 2 ≤ j → j + 1 < f.length → f[j]? = some x → x ≠ 0xFE ∧ x ≠ 0xFD) ∧
    (∀ c : Config, c.maxFrameLen = maxLen → decode c f ≠ .err .badFraming)

/-- FEED and FRAME agree: the bytes of a frame with no marker inside, fed one by one to a hunting assembler, report
nothing until the last, and with the last they do exactly what FRAME does with the whole, but for the link's own
assembler. -/
def Obligations.FeedingAFrameIsFraming : Prop :=
  ∀ (s : State) (l : Nat) (t : Time) (body : List Byte) (rest : List HostOp) (a : Assembler),
    s.cfg.wf = true → s.wasReset = true → s.hasReservedCode = false → l < s.cfg.nLinks → s.asms[l]? = some a →
    a.astate = .hunt → a.buf.length = s.cfg.maxFrameLen → body.all notMarker = true →
    body.length + 3 ≤ s.cfg.maxFrameLen →
    s.pending = feeds l t ([0xFE, 0xFE] ++ body ++ [0xFD]) ++ rest →
    (∀ n, 0 < n → n < body.length + 3 →
      ∃ u, Host.Core.run Sys2Proof.core n s = .next u ∧ u.out = Output.zero ∧
        u.st1 = s.st1 ∧ u.st2 = s.st2 ∧ u.mon = s.mon) ∧
    ∃ u v, Host.Core.run Sys2Proof.core (body.length + 3) s = .next u ∧
      step (s.withPending (.frame ([0xFE, 0xFE] ++ body ++ [0xFD]) t :: rest)) = .next v ∧
      sameButAssemblers u v ∧ v.asms = s.asms ∧
      (∃ a', u.asms[l]? = some a' ∧ a'.astate = .hunt ∧ a'.cnt = 0) ∧
      (∀ l', l' ≠ l → u.asms[l']? = s.asms[l']?)

/-- The assemblers a step leaves alone: all of them under FRAME and TICK, and under FEED every one but its own link's
(45_interface_ops.md, FEED and FRAME). -/
def Obligations.OtherAssemblersUntouched : Prop :=
  ∀ (s t : State) (op : HostOp) (rest : List HostOp), s.pending = op :: rest → step s = .next t →
    (∀ f u, op = .frame f u → t.asms = s.asms) ∧ (∀ u, op = .tick u → t.asms = s.asms) ∧
    (∀ l b u, op = .feed l b u → ∀ l', l' ≠ l → t.asms[l']? = s.asms[l']?)

/-! ## The conflict monitor -/

/-- 44_conflict_monitor.md R119: two bands conflict exactly when neither is Unclassified and they are the same band or a
pair of `CONFLICT_PAIRS`; the pair is unordered. -/
def Obligations.ConflictPredicate : Prop :=
  ∀ (c : Config) (a b : Byte),
    (conflicts c a b = true ↔
      a ≠ 0 ∧ b ≠ 0 ∧ (a = b ∨ (a, b) ∈ c.conflictPairs ∨ (b, a) ∈ c.conflictPairs)) ∧
    conflicts c a b = conflicts c b a

/-- 44_conflict_monitor.md R121: the elapsed time is the difference modulo 2^32, and the hold has run out when it is at
least `HOLD_TIME`. -/
def Obligations.ElapsedIsModular : Prop :=
  ∀ (c : Config) (now since : Time),
    ((elapsed now since).toNat : Int) = ((now.toNat : Int) - since.toNat) % 2 ^ 32 ∧
    (holdExpired c now since = true ↔ (elapsed now since).toNat ≥ c.holdTime.toNat)

/-- 44_conflict_monitor.md R122 to R124: every transition of an evaluation, at the operation's time operand, which is
`s.now` (log 3). -/
def Obligations.EvaluationTransitions : Prop :=
  ∀ (s : State) (changed : Bool),
    let c := conflicts s.cfg s.st1.band s.st2.band
    (s.mon.mstate = .clear → c = true → evaluate changed s = some (s.withMon ⟨.holding, s.now⟩, .noEvent)) ∧
    (s.mon.mstate = .clear → c = false → evaluate changed s = some (s, .noEvent)) ∧
    (s.mon.mstate = .holding → c = false →
      evaluate changed s = some (s.withMon ⟨.clear, s.mon.since⟩, .noEvent)) ∧
    (s.mon.mstate = .holding → c = true → changed = true →
      evaluate changed s = some (s.withMon ⟨.holding, s.now⟩, .noEvent)) ∧
    (s.mon.mstate = .holding → c = true → changed = false →
      (elapsed s.now s.mon.since).toNat ≥ s.cfg.holdTime.toNat →
      evaluate changed s = some (s.withMon ⟨.alerting, s.mon.since⟩, .raise)) ∧
    (s.mon.mstate = .holding → c = true → changed = false →
      (elapsed s.now s.mon.since).toNat < s.cfg.holdTime.toNat → evaluate changed s = some (s, .noEvent)) ∧
    (s.mon.mstate = .alerting → c = false →
      evaluate changed s = some (s.withMon ⟨.clear, s.mon.since⟩, .clear)) ∧
    (s.mon.mstate = .alerting → c = true → evaluate changed s = some (s, .noEvent))

/-- An evaluation reads of the station records their bands alone: two states that agree on the configuration, the bands,
the monitor and the time get the same monitor and the same event. -/
def Obligations.EvaluationReadsBandsOnly : Prop :=
  ∀ (s u s' u' : State) (changed : Bool) (ev ev' : Event), s.cfg = u.cfg → s.st1.band = u.st1.band →
    s.st2.band = u.st2.band → s.mon = u.mon → s.now = u.now →
    evaluate changed s = some (s', ev) → evaluate changed u = some (u', ev') → s'.mon = u'.mon ∧ ev = ev'

/-- TICK (45_interface_ops.md R134) evaluates the monitor with no band change and reports its event alone; it writes
the monitor alone, and, where the monitor agrees with the bands, only from HOLDING to ALERTING. -/
def Obligations.TickResult : Prop :=
  ∀ (s : State) (t : Time) (rest : List HostOp), opReady s (.tick t) rest →
    ∃ s' ev, evaluate false (opStart s t rest) = some (s', ev) ∧
      step s = .next (s'.withOut { Output.zero with event := ev }) ∧
      s' = (opStart s t rest).withMon s'.mon ∧
      (s.coherent = true → s'.mon = s.mon ∨ (s.mon.mstate = .holding ∧ s'.mon = ⟨.alerting, s.mon.since⟩))

/-- 44_conflict_monitor.md R127: RAISE exactly on HOLDING to ALERTING, CLEAR exactly on ALERTING to CLEAR, NONE on
everything else; a RESET reports none. -/
def Obligations.EventsMarkAlertEdges : Prop :=
  ∀ (s t : State) (op : HostOp) (rest : List HostOp), s.pending = op :: rest → step s = .next t →
    (op ≠ .reset →
      (t.out.event = .raise ↔ s.mon.mstate = .holding ∧ t.mon.mstate = .alerting) ∧
      (t.out.event = .clear ↔ s.mon.mstate = .alerting ∧ t.mon.mstate = .clear)) ∧
    (op = .reset → t.out.event = .noEvent)

/-- An alert rises by a TICK alone, from HOLDING, in a conflict, with the hold time run out (44_conflict_monitor.md §2,
70_reset_and_hazards.md §3). -/
def Obligations.OnlyTickRaisesAlert : Prop :=
  ∀ (s t : State), step s = .next t → s.alert = false → t.alert = true →
    ∃ u rest, s.pending = .tick u :: rest ∧ s.mon.mstate = .holding ∧
      conflicts s.cfg s.st1.band s.st2.band = true ∧ (elapsed u s.mon.since).toNat ≥ s.cfg.holdTime.toNat

/-- A hold is kept: while no band changes and no TICK comes at or after the hold time, no operation but a RESET changes
the monitor (44_conflict_monitor.md §2). -/
def Obligations.HoldKeptUntilHoldTime : Prop :=
  ∀ (s t : State) (op : HostOp) (rest : List HostOp), s.inv = true → s.mon.mstate = .holding →
    s.pending = op :: rest → op ≠ .reset → step s = .next t →
    t.st1.band = s.st1.band → t.st2.band = s.st2.band →
    (∀ u, op = .tick u → (elapsed u s.mon.since).toNat < s.cfg.holdTime.toNat) →
    t.mon = s.mon ∧ t.alert = false

/-- Debounce (44_conflict_monitor.md §2): in a conflict held since `T`, the alert stays down through every TICK before
`T + HOLD_TIME`, and the first TICK at or after it raises. -/
def Obligations.DebounceByTicks : Prop :=
  ∀ (s : State) (ts : List Time) (u : Time) (rest : List HostOp), s.inv = true → s.mon.mstate = .holding →
    (∀ x ∈ ts, (elapsed x s.mon.since).toNat < s.cfg.holdTime.toNat) →
    (elapsed u s.mon.since).toNat ≥ s.cfg.holdTime.toNat →
    s.pending = ts.map .tick ++ .tick u :: rest →
    (∀ n, n ≤ ts.length → ∃ t, Host.Core.run Sys2Proof.core n s = .next t ∧ t.alert = false ∧ t.mon = s.mon) ∧
    ∃ t, Host.Core.run Sys2Proof.core (ts.length + 1) s = .next t ∧ t.alert = true ∧ t.out.event = .raise ∧
      t.mon.since = s.mon.since ∧ t.st1 = s.st1 ∧ t.st2 = s.st2

/-- Instant clear (44_conflict_monitor.md §2): from ALERTING, an operation that leaves the bands without a conflict drops
the alert in itself, and reports CLEAR. -/
def Obligations.AlertClearsAtOnce : Prop :=
  ∀ (s t : State) (op : HostOp) (rest : List HostOp), s.inv = true → s.mon.mstate = .alerting →
    s.pending = op :: rest → op ≠ .reset → step s = .next t →
    (conflicts t.cfg t.st1.band t.st2.band = false →
      t.mon.mstate = .clear ∧ t.alert = false ∧ t.out.event = .clear) ∧
    (conflicts t.cfg t.st1.band t.st2.band = true → t.mon = s.mon ∧ t.alert = true ∧ t.out.event = .noEvent)

/-- In a good state a TICK does at most one thing: it takes HOLDING to ALERTING (44_conflict_monitor.md §2). -/
def Obligations.TickInGoodState : Prop :=
  ∀ (s : State) (u : Time) (rest : List HostOp), s.inv = true → s.pending = .tick u :: rest →
    (s.mon.mstate = .holding → (elapsed u s.mon.since).toNat ≥ s.cfg.holdTime.toNat →
      step s = .next (((opStart s u rest).withMon ⟨.alerting, s.mon.since⟩).withOut
        { Output.zero with event := .raise })) ∧
    (¬(s.mon.mstate = .holding ∧ (elapsed u s.mon.since).toNat ≥ s.cfg.holdTime.toNat) →
      step s = .next ((opStart s u rest).withOut Output.zero))

/-! ## Invariants -/

/-- The invariant of the block holds in the state after reset. It rests on log 1 (the configuration `State.reset`
carries) and log 7 (only the number of cells in `buf`). -/
def Obligations.InvariantAtReset : Prop := State.inv State.reset = true

/-- Every step keeps the invariant: legal fields, one assembler a link with a legal partial frame, band codes of the
table, mode codes of the table, no reserved code, and a monitor that is out of CLEAR exactly when the bands conflict. -/
def Obligations.StepKeepsInvariant : Prop :=
  ∀ s t : State, s.inv = true → step s = .next t → t.inv = true

/-- The first RESET brings a powered-up block, whatever its fields hold (log 6), into the invariant; so does every later
RESET. -/
def Obligations.ResetEstablishesInvariant : Prop :=
  ∀ (s t : State) (rest : List HostOp), s.pending = .reset :: rest → step s = .next t → t.inv = true

/-- A good state whose FEEDs name existing links runs on: no number of steps ends in a refusal or a fault, and every
state on the way is good. The steps past the last pending operation are idle steps, which are the model's own choice (log
2): of them it says only that nothing is refused, not that anything happens. -/
def Obligations.GoodStatesRunOn : Prop :=
  ∀ (n : Nat) (s : State), s.inv = true → linksOk s.cfg.nLinks s.pending = true →
    ∃ t, Host.Core.run Sys2Proof.core n s = .next t ∧ t.inv = true

/-! ## The step function, RESET and the ports -/

/-- 10_state.md R33, 45_interface_ops.md R135: in a state without a reserved code, a RESET, the first or a later one,
gives every field its value in the table, whose cells of `buf` are unspecified; the alert is down, and the output is all
zero. -/
def Obligations.ResetOperation : Prop :=
  ∀ (s : State) (rest : List HostOp), s.cfg.wf = true → s.hasReservedCode = false → s.pending = .reset :: rest →
    ∃ t, step s = .next t ∧ afterReset s rest t

/-- The first RESET completes whatever the powered-up block holds, a reserved code too. That a reserved code is not looked
at before the first RESET is the model's reading (log 6). -/
def Obligations.FirstResetFromAnyState : Prop :=
  ∀ (s : State) (rest : List HostOp), s.cfg.wf = true → s.wasReset = false → s.pending = .reset :: rest →
    ∃ t, step s = .next t ∧ afterReset s rest t

/-- `State.reset` holds the values of 10_state.md R33, in the test configuration (log 1), with no operation pending
(log 2). -/
def Obligations.ResetStateValues : Prop :=
  (∀ k, (State.reset.station k).band = 0 ∧ (State.reset.station k).mode = 0 ∧ (State.reset.station k).filter = 0 ∧
    (State.reset.station k).filterValid = false ∧ (State.reset.station k).lastChange = 0) ∧
  State.reset.mon = ⟨.clear, 0⟩ ∧ State.reset.alert = false ∧ State.reset.asms.length = State.reset.cfg.nLinks ∧
  (∀ a ∈ State.reset.asms, a.astate = .hunt ∧ a.cnt = 0) ∧ State.reset.wasReset = true ∧
  State.reset.pending = []

/-- Before the first RESET every other operation is refused (10_state.md R34, 70_reset_and_hazards.md R156), and so is a
sample of any port. -/
def Obligations.RefusedBeforeReset : Prop :=
  ∀ s : State, s.cfg.wf = true → s.wasReset = false →
    (∀ op rest, op ≠ .reset → s.pending = op :: rest → step s = .refused .beforeReset) ∧
    (∀ p, samplePort p s = .error .beforeReset)

/-- The step function refuses in exactly the cases of 45_interface_ops.md, each by its own name, and never faults. That a
reserved code is not looked at before the first RESET, and the order of the checks, are the model's reading (log 6, log
13). -/
def Obligations.RefusalsExactly : Prop :=
  ∀ (s : State) (op : HostOp) (rest : List HostOp), s.pending = op :: rest → s.asms.length = s.cfg.nLinks →
    (∀ r, step s = .refused r ↔
      (r = .configNotWellFormed ∧ s.cfg.wf = false) ∨
      (r = .beforeReset ∧ s.cfg.wf = true ∧ s.wasReset = false ∧ op ≠ .reset) ∨
      (r = .unreachableState ∧ s.cfg.wf = true ∧ s.wasReset = true ∧ s.hasReservedCode = true) ∨
      (r = .badLink ∧ s.cfg.wf = true ∧ s.wasReset = true ∧ s.hasReservedCode = false ∧
        ∃ l b t, op = .feed l b t ∧ s.cfg.nLinks ≤ l)) ∧
    ∀ e, step s ≠ .fault e

/-- Under a configuration that is not well-formed every step is refused, with or without an operation pending, and so is
every sample. The refusal's name, and that it comes before every other, are the model's (log 13). -/
def Obligations.BadConfigurationRefused : Prop :=
  ∀ s : State, s.cfg.wf = false →
    step s = .refused .configNotWellFormed ∧ ∀ p, samplePort p s = .error .configNotWellFormed

/-- A RESET applied twice leaves what it leaves applied once. -/
def Obligations.ResetIdempotent : Prop :=
  ∀ (s t : State) (rest : List HostOp), s.pending = .reset :: .reset :: rest → step s = .next t →
    step t = .next (t.withPending rest)

/-- With no operation pending the block is idle and keeps all its state (60_exceptions.md §4; log 2). -/
def Obligations.IdleKeepsState : Prop :=
  ∀ s : State, s.cfg.wf = true → s.pending = [] → step s = .next s

/-- An operation sees none of the later ones: whatever stands behind it, its effect is the same, and what stands behind
it is what is left (20_memory.md §5). -/
def Obligations.LaterOperationsNotSeen : Prop :=
  ∀ (s t : State) (op : HostOp) (rest rest' : List HostOp), step (s.withPending (op :: rest)) = .next t →
    t.pending = rest ∧ step (s.withPending (op :: rest')) = .next (t.withPending rest')

/-- No operation sees the output record or the time of an earlier one (10_state.md §6; logs 3 and 4). -/
def Obligations.EarlierOutputNotSeen : Prop :=
  ∀ (s : State) (op : HostOp) (rest : List HostOp) (o : Output) (x : Time), s.pending = op :: rest →
    step ((s.withOut o).withNow x) = step s

/-- The output record's fields that do not apply are 0 (10_state.md §6): a station id exactly with FREQ, MODE, IGNORED
and BAD_ENCODING; a frequency and a band only with FREQ; a mode only with MODE; an event only with FREQ or no
frame. -/
def Obligations.OutputFieldsApply : Prop :=
  ∀ (s t : State) (op : HostOp) (rest : List HostOp), s.pending = op :: rest → step s = .next t →
    (t.out.station ≠ 0 ↔ (t.out.status = .freq ∨ t.out.status = .mode ∨ t.out.status = .ignored ∨
      t.out.status = .badEncoding)) ∧
    (t.out.status ≠ .freq → t.out.freq = 0 ∧ t.out.band = 0) ∧ (t.out.status ≠ .mode → t.out.mode = 0) ∧
    (t.out.event ≠ .noEvent → t.out.status = .freq ∨ t.out.status = .noFrame)

/-- 10_state.md R29: after a RESET each port shows its field, `ALERT` the alert level; the step of a RESET leaves every
port at 0; and no port shows `MON.since` or an assembler. -/
def Obligations.PortsShowState : Prop :=
  (∀ s : State, s.cfg.wf = true → s.wasReset = true →
    (∀ k, samplePort (.band k) s = .ok (s.station k).band ∧ samplePort (.mode k) s = .ok (s.station k).mode ∧
      samplePort (.filter k) s = .ok (s.station k).filter ∧
      samplePort (.filterValid k) s = .ok (if (s.station k).filterValid then 1#1 else 0#1) ∧
      samplePort (.lastChange k) s = .ok (s.station k).lastChange) ∧
    samplePort .mstate s = .ok s.mon.mstate.code ∧
    samplePort .alert s = .ok (if s.mon.mstate = .alerting then 1#1 else 0#1)) ∧
  (∀ (s t : State) (rest : List HostOp), s.pending = .reset :: rest → step s = .next t →
    ∀ p, samplePort p t = .ok 0) ∧
  (∀ s u : State, s.cfg = u.cfg → s.wasReset = u.wasReset → s.st1 = u.st1 → s.st2 = u.st2 →
    s.mon.mstate = u.mon.mstate → ∀ p, samplePort p s = samplePort p u)
end

