-- ==== Sys2Proof/Laws/Decode.lean ====
section
/-! SUPPORT. The fields of a dispatched command, and the addresses of the two parties. -/

namespace Sys2Proof

variable (cmd : Byte) (dest src : Party) (data : List Byte)

@[simp] theorem commandOf_cmd : (commandOf cmd dest src data).cmd = cmd := by
  unfold commandOf
  split_ifs <;> simp_all [Instr.cmd]

@[simp] theorem commandOf_dest : (commandOf cmd dest src data).dest = dest := by
  unfold commandOf
  split_ifs <;> rfl

@[simp] theorem commandOf_src : (commandOf cmd dest src data).src = src := by
  unfold commandOf
  split_ifs <;> rfl

@[simp] theorem commandOf_data : (commandOf cmd dest src data).data = data := by
  unfold commandOf
  split_ifs <;> rfl

/-- Dispatch gives no OTHER with a named code. -/
@[simp] theorem commandOf_codeOk : (commandOf cmd dest src data).codeOk = true := by
  unfold commandOf
  split_ifs <;> simp_all [Instr.codeOk, isNamedCommand]

/-- A command whose code is its own is what its fields dispatch to. -/
theorem commandOf_fields {i : Instr} (h : i.codeOk = true) : commandOf i.cmd i.dest i.src i.data = i := by
  cases i with
  | other dest src cmd data =>
    have hne : ∀ x ∈ [sendFreqCmd, sendModeCmd, queryFreqCmd, queryModeCmd], cmd ≠ x := by
      simpa [Instr.codeOk, isNamedCommand, and_assoc] using h
    simp only [List.forall_mem_cons] at hne
    obtain ⟨h0, h1, h2, h3, -⟩ := hne
    simp [commandOf, Instr.cmd, Instr.dest, Instr.src, Instr.data, h0, h1, h2, h3]
  | _ => rfl

/-- The address byte of the party that an address byte names is that byte. -/
theorem addrOf_of_partyOf {c : Config} {b : Byte} {p : Party} (h : partyOf c b = some p) : addrOf c p = b := by
  unfold partyOf at h
  split_ifs at h <;> cases h <;> simp_all [addrOf]

/-- Each party is named by its address, where the radio's is not the controller's (00_scope.md R8). -/
theorem partyOf_addrOf {c : Config} (h : c.radioAddr ≠ ctrlAddr) (p : Party) : partyOf c (addrOf c p) = some p := by
  cases p <;> simp [partyOf, addrOf, h]

end Sys2Proof
end

