-- ==== Sys2Proof/Laws/State.lean ====
section
/-! SUPPORT. The small lemmas of the state's updates: what each update does to each field. -/

namespace Sys2Proof.Machine

section WithMon

variable (s : State) (m : Monitor)

@[simp] theorem withMon_cfg : (s.withMon m).cfg = s.cfg := rfl
@[simp] theorem withMon_wasReset : (s.withMon m).wasReset = s.wasReset := rfl
@[simp] theorem withMon_st1 : (s.withMon m).st1 = s.st1 := rfl
@[simp] theorem withMon_st2 : (s.withMon m).st2 = s.st2 := rfl
@[simp] theorem withMon_mon : (s.withMon m).mon = m := rfl
@[simp] theorem withMon_asms : (s.withMon m).asms = s.asms := rfl
@[simp] theorem withMon_now : (s.withMon m).now = s.now := rfl
@[simp] theorem withMon_out : (s.withMon m).out = s.out := rfl
@[simp] theorem withMon_pending : (s.withMon m).pending = s.pending := rfl
@[simp] theorem withMon_station (k : StationId) : (s.withMon m).station k = s.station k := by cases k <;> rfl

end WithMon

section WithNow

variable (s : State) (x : Time)

@[simp] theorem withNow_cfg : (s.withNow x).cfg = s.cfg := rfl
@[simp] theorem withNow_wasReset : (s.withNow x).wasReset = s.wasReset := rfl
@[simp] theorem withNow_st1 : (s.withNow x).st1 = s.st1 := rfl
@[simp] theorem withNow_st2 : (s.withNow x).st2 = s.st2 := rfl
@[simp] theorem withNow_mon : (s.withNow x).mon = s.mon := rfl
@[simp] theorem withNow_asms : (s.withNow x).asms = s.asms := rfl
@[simp] theorem withNow_now : (s.withNow x).now = x := rfl
@[simp] theorem withNow_out : (s.withNow x).out = s.out := rfl
@[simp] theorem withNow_pending : (s.withNow x).pending = s.pending := rfl
@[simp] theorem withNow_station (k : StationId) : (s.withNow x).station k = s.station k := by cases k <;> rfl

end WithNow

section WithOut

variable (s : State) (o : Output)

@[simp] theorem withOut_cfg : (s.withOut o).cfg = s.cfg := rfl
@[simp] theorem withOut_wasReset : (s.withOut o).wasReset = s.wasReset := rfl
@[simp] theorem withOut_st1 : (s.withOut o).st1 = s.st1 := rfl
@[simp] theorem withOut_st2 : (s.withOut o).st2 = s.st2 := rfl
@[simp] theorem withOut_mon : (s.withOut o).mon = s.mon := rfl
@[simp] theorem withOut_asms : (s.withOut o).asms = s.asms := rfl
@[simp] theorem withOut_now : (s.withOut o).now = s.now := rfl
@[simp] theorem withOut_out : (s.withOut o).out = o := rfl
@[simp] theorem withOut_pending : (s.withOut o).pending = s.pending := rfl
@[simp] theorem withOut_station (k : StationId) : (s.withOut o).station k = s.station k := by cases k <;> rfl

end WithOut

section WithPending

variable (s : State) (ops : List HostOp)

@[simp] theorem withPending_cfg : (s.withPending ops).cfg = s.cfg := rfl
@[simp] theorem withPending_wasReset : (s.withPending ops).wasReset = s.wasReset := rfl
@[simp] theorem withPending_st1 : (s.withPending ops).st1 = s.st1 := rfl
@[simp] theorem withPending_st2 : (s.withPending ops).st2 = s.st2 := rfl
@[simp] theorem withPending_mon : (s.withPending ops).mon = s.mon := rfl
@[simp] theorem withPending_asms : (s.withPending ops).asms = s.asms := rfl
@[simp] theorem withPending_now : (s.withPending ops).now = s.now := rfl
@[simp] theorem withPending_out : (s.withPending ops).out = s.out := rfl
@[simp] theorem withPending_pending : (s.withPending ops).pending = ops := rfl
@[simp] theorem withPending_station (k : StationId) : (s.withPending ops).station k = s.station k := by cases k <;> rfl

end WithPending

section WithAsm

variable (s : State) (l : Nat) (a : Assembler)

@[simp] theorem withAsm_cfg : (s.withAsm l a).cfg = s.cfg := rfl
@[simp] theorem withAsm_wasReset : (s.withAsm l a).wasReset = s.wasReset := rfl
@[simp] theorem withAsm_st1 : (s.withAsm l a).st1 = s.st1 := rfl
@[simp] theorem withAsm_st2 : (s.withAsm l a).st2 = s.st2 := rfl
@[simp] theorem withAsm_mon : (s.withAsm l a).mon = s.mon := rfl
@[simp] theorem withAsm_asms : (s.withAsm l a).asms = s.asms.set l a := rfl
@[simp] theorem withAsm_now : (s.withAsm l a).now = s.now := rfl
@[simp] theorem withAsm_out : (s.withAsm l a).out = s.out := rfl
@[simp] theorem withAsm_pending : (s.withAsm l a).pending = s.pending := rfl
@[simp] theorem withAsm_station (k : StationId) : (s.withAsm l a).station k = s.station k := by cases k <;> rfl

end WithAsm

section WithStation

variable (s : State) (k : StationId) (st : Station)

@[simp] theorem withStation_cfg : (s.withStation k st).cfg = s.cfg := by cases k <;> rfl
@[simp] theorem withStation_wasReset : (s.withStation k st).wasReset = s.wasReset := by cases k <;> rfl
@[simp] theorem withStation_mon : (s.withStation k st).mon = s.mon := by cases k <;> rfl
@[simp] theorem withStation_asms : (s.withStation k st).asms = s.asms := by cases k <;> rfl
@[simp] theorem withStation_now : (s.withStation k st).now = s.now := by cases k <;> rfl
@[simp] theorem withStation_out : (s.withStation k st).out = s.out := by cases k <;> rfl
@[simp] theorem withStation_pending : (s.withStation k st).pending = s.pending := by cases k <;> rfl
@[simp] theorem withStation_one : s.withStation .one st = { s with st1 := st } := rfl
@[simp] theorem withStation_two : s.withStation .two st = { s with st2 := st } := rfl
@[simp] theorem withStation_station_self : (s.withStation k st).station k = st := by cases k <;> rfl

theorem withStation_station_of_ne {j : StationId} (h : j ≠ k) : (s.withStation k st).station j = s.station j := by
  cases j <;> cases k <;> first | rfl | exact absurd rfl h

end WithStation

section Reset

variable (s : State)

@[simp] theorem resetOp_cfg : (resetOp s).cfg = s.cfg := rfl
@[simp] theorem resetOp_wasReset : (resetOp s).wasReset = true := rfl
@[simp] theorem resetOp_st1 : (resetOp s).st1 = Station.reset := rfl
@[simp] theorem resetOp_st2 : (resetOp s).st2 = Station.reset := rfl
@[simp] theorem resetOp_mon : (resetOp s).mon = Monitor.reset := rfl
@[simp] theorem resetOp_asms : (resetOp s).asms = List.replicate s.cfg.nLinks (Assembler.reset s.cfg) := rfl
@[simp] theorem resetOp_now : (resetOp s).now = 0 := rfl
@[simp] theorem resetOp_out : (resetOp s).out = Output.zero := rfl
@[simp] theorem resetOp_pending : (resetOp s).pending = s.pending := rfl

end Reset

@[simp] theorem station_one (s : State) : s.station .one = s.st1 := rfl
@[simp] theorem station_two (s : State) : s.station .two = s.st2 := rfl
@[simp] theorem withMon_self (s : State) : s.withMon s.mon = s := rfl
@[simp] theorem withOut_withOut (s : State) (o o' : Output) : (s.withOut o).withOut o' = s.withOut o' := rfl

theorem withAsm_getElem?_of_ne (s : State) {l l' : Nat} (a : Assembler) (h : l' ≠ l) :
    (s.withAsm l a).asms[l']? = s.asms[l']? := by
  simp [h.symm]

theorem withAsm_getElem?_self (s : State) {l : Nat} (a : Assembler) (h : l < s.asms.length) :
    (s.withAsm l a).asms[l]? = some a := by
  simp [h]

end Sys2Proof.Machine
end

