-- ==== Sys2Proof/Laws/Ops.lean ====
section
/-! SUPPORT. One lemma for each shared operation that says once everything it can do. -/

namespace Sys2Proof.Machine

variable {s t s' : State} {ev : Event} {ch : Bool} {k : StationId}

/-- All the transitions of the monitor (44_conflict_monitor.md R122 to R124). -/
theorem monitorNext_cases {c : Config} {x : Bool} {now : Time} {m m' : Monitor}
    (h : monitorNext c x ch now m = some (m', ev)) :
    (m.mstate = .clear ∧ x = false ∧ m' = m ∧ ev = .noEvent) ∨
    (m.mstate = .clear ∧ x = true ∧ m' = ⟨.holding, now⟩ ∧ ev = .noEvent) ∨
    (m.mstate = .holding ∧ x = false ∧ m' = ⟨.clear, m.since⟩ ∧ ev = .noEvent) ∨
    (m.mstate = .holding ∧ x = true ∧ ch = true ∧ m' = ⟨.holding, now⟩ ∧ ev = .noEvent) ∨
    (m.mstate = .holding ∧ x = true ∧ ch = false ∧ holdExpired c now m.since = true ∧
      m' = ⟨.alerting, m.since⟩ ∧ ev = .raise) ∨
    (m.mstate = .holding ∧ x = true ∧ ch = false ∧ holdExpired c now m.since = false ∧ m' = m ∧ ev = .noEvent) ∨
    (m.mstate = .alerting ∧ x = false ∧ m' = ⟨.clear, m.since⟩ ∧ ev = .clear) ∨
    (m.mstate = .alerting ∧ x = true ∧ m' = m ∧ ev = .noEvent) := by
  obtain ⟨ms, since⟩ := m
  cases ms <;> cases x <;> cases ch <;> cases he : holdExpired c now since <;>
    simp [monitorNext, he] at h ⊢ <;> simp [← h.1, ← h.2]

/-- The evaluation writes `MON` alone, by the monitor's transition. -/
theorem evaluate_cases (h : evaluate ch s = some (s', ev)) :
    ∃ m, s' = s.withMon m ∧
      monitorNext s.cfg (conflicts s.cfg s.st1.band s.st2.band) ch s.now s.mon = some (m, ev) := by
  simp only [evaluate, Option.map_eq_some_iff] at h
  obtain ⟨⟨m, ev'⟩, hm, he⟩ := h
  cases he
  exact ⟨m, rfl, hm⟩

/-- The evaluation answers but in the reserved encoding. -/
theorem evaluate_isSome (ch : Bool) (h : s.mon.mstate ≠ .reserved) : (evaluate ch s).isSome = true := by
  simp only [evaluate, Option.isSome_map]
  generalize conflicts s.cfg s.st1.band s.st2.band = x
  revert h
  generalize s.mon = m
  intro h
  obtain ⟨ms, since⟩ := m
  cases ms <;> cases x <;> simp [monitorNext] at h ⊢
  repeat' split
  all_goals rfl

@[simp] theorem raiseFrameError_eq (e : FrameError) (n : BitVec 2) (s : State) :
    raiseFrameError e n s = .next (s.withOut (errorOut e n)) := rfl

/-- What storing a decoded frequency can do (43_station_processor.md R111). -/
theorem updateBand_cases {v : Word} (h : updateBand k v s = .next t) :
    (bandFor s.cfg v = (s.station k).band ∧ t = s.withOut (freqOut k v (s.station k).band .noEvent)) ∨
    (bandFor s.cfg v ≠ (s.station k).band ∧ ∃ s' ev,
      evaluate true (s.withStation k { s.station k with band := bandFor s.cfg v, lastChange := s.now }) =
        some (s', ev) ∧ t = s'.withOut (freqOut k v (bandFor s.cfg v) ev)) := by
  simp only [updateBand] at h
  split at h
  · rename_i hb
    cases h
    exact .inl ⟨hb, by rw [hb]⟩
  · rename_i hb
    split at h
    · rename_i s' ev he
      cases h
      exact .inr ⟨hb, s', ev, he, rfl⟩
    · cases h

/-- What a frequency command can do (43_station_processor.md R111). -/
theorem applyFreq_cases {data : List Byte} (h : applyFreq k data s = .next t) :
    (data.length = 0 ∧ t = s.withOut (ignoredOut k)) ∨
    ((data.length ≠ 0 ∧ data.length ≠ freqDataSize ∨
        data.length = freqDataSize ∧ (decodeFrequency data).1 = true) ∧
      t = s.withOut (errorOut .badEncoding (stationCode k))) ∨
    (data.length = freqDataSize ∧ (decodeFrequency data).1 = false ∧
      updateBand k (decodeFrequency data).2 s = .next t) := by
  simp only [applyFreq] at h
  split at h
  · cases h; exact .inl ⟨by assumption, rfl⟩
  · split at h
    · cases h; exact .inr (.inl ⟨.inl ⟨by assumption, by assumption⟩, rfl⟩)
    · rename_i _ hl
      have hl : data.length = freqDataSize := by simpa using hl
      split at h
      · cases h; exact .inr (.inl ⟨.inr ⟨hl, by assumption⟩, rfl⟩)
      · rename_i hb
        exact .inr (.inr ⟨hl, by simpa using hb, h⟩)

/-- What a mode command can do (43_station_processor.md R114). -/
theorem applyMode_cases {data : List Byte} (h : applyMode k data s = .next t) :
    (data = [] ∧ t = s.withOut (ignoredOut k)) ∨
    (∃ m, data = [m] ∧ t = (s.withStation k { s.station k with
        mode := decodeMode s.cfg m, filter := 0, filterValid := false }).withOut (modeOut k (decodeMode s.cfg m))) ∨
    (∃ m f, data = [m, f] ∧ t = (s.withStation k { s.station k with
        mode := decodeMode s.cfg m, filter := f, filterValid := true }).withOut (modeOut k (decodeMode s.cfg m))) ∨
    (3 ≤ data.length ∧ t = s.withOut (errorOut .badEncoding (stationCode k))) := by
  match data, h with
  | [], h => cases h; exact .inl ⟨rfl, rfl⟩
  | [m], h => cases h; exact .inr (.inl ⟨m, rfl, rfl⟩)
  | [m, f], h => cases h; exact .inr (.inr (.inl ⟨m, f, rfl, rfl⟩))
  | _ :: _ :: _ :: _, h => cases h; exact .inr (.inr (.inr ⟨by simp, rfl⟩))

/-- Everything a command can do, whichever it is: report only; store a mode; or store a band and evaluate. -/
theorem exec_cases {i : Instr} (h : exec i s = .next t) :
    ∃ k, k = stationOf s.cfg i.src ∧
      ((∃ o, t = s.withOut o ∧ (o = ignoredOut k ∨ o = errorOut .badEncoding (stationCode k) ∨
          ∃ v, bandFor s.cfg v = (s.station k).band ∧ o = freqOut k v (s.station k).band .noEvent)) ∨
       (∃ m f fv, (fv = true ∨ f = 0) ∧ t = (s.withStation k { s.station k with
          mode := decodeMode s.cfg m, filter := f, filterValid := fv }).withOut (modeOut k (decodeMode s.cfg m))) ∨
       (∃ v s' ev, bandFor s.cfg v ≠ (s.station k).band ∧
          evaluate true (s.withStation k { s.station k with band := bandFor s.cfg v, lastChange := s.now }) =
            some (s', ev) ∧ t = s'.withOut (freqOut k v (bandFor s.cfg v) ev))) := by
  refine ⟨_, rfl, ?_⟩
  have hf : ∀ {k data}, applyFreq k data s = .next t →
      ((∃ o, t = s.withOut o ∧ (o = ignoredOut k ∨ o = errorOut .badEncoding (stationCode k) ∨
          ∃ v, bandFor s.cfg v = (s.station k).band ∧ o = freqOut k v (s.station k).band .noEvent)) ∨
       (∃ v s' ev, bandFor s.cfg v ≠ (s.station k).band ∧
          evaluate true (s.withStation k { s.station k with band := bandFor s.cfg v, lastChange := s.now }) =
            some (s', ev) ∧ t = s'.withOut (freqOut k v (bandFor s.cfg v) ev))) := by
    intro k data h
    rcases applyFreq_cases h with ⟨_, rfl⟩ | ⟨_, rfl⟩ | ⟨_, _, hu⟩
    · exact .inl ⟨_, rfl, .inl rfl⟩
    · exact .inl ⟨_, rfl, .inr (.inl rfl)⟩
    · rcases updateBand_cases hu with ⟨hb, rfl⟩ | ⟨hb, s', ev, he, rfl⟩
      · exact .inl ⟨_, rfl, .inr (.inr ⟨_, hb, rfl⟩)⟩
      · exact .inr ⟨_, s', ev, hb, he, rfl⟩
  have hm : ∀ {k data}, applyMode k data s = .next t →
      ((∃ o, t = s.withOut o ∧ (o = ignoredOut k ∨ o = errorOut .badEncoding (stationCode k))) ∨
       (∃ m f fv, (fv = true ∨ f = 0) ∧ t = (s.withStation k { s.station k with
          mode := decodeMode s.cfg m, filter := f, filterValid := fv }).withOut
            (modeOut k (decodeMode s.cfg m)))) := by
    intro k data h
    rcases applyMode_cases h with ⟨_, rfl⟩ | ⟨m, _, rfl⟩ | ⟨m, f, _, rfl⟩ | ⟨_, rfl⟩
    · exact .inl ⟨_, rfl, .inl rfl⟩
    · exact .inr ⟨m, 0, false, .inr rfl, rfl⟩
    · exact .inr ⟨m, f, true, .inl rfl, rfl⟩
    · exact .inl ⟨_, rfl, .inr rfl⟩
  cases i with
  | sendFreq _ src data => exact (hf h).imp_right .inr
  | queryFreq _ src data => exact (hf h).imp_right .inr
  | sendMode _ src data =>
    rcases hm h with ⟨o, ht, ho⟩ | hu
    · exact .inl ⟨o, ht, ho.imp_right .inl⟩
    · exact .inr (.inl hu)
  | queryMode _ src data =>
    rcases hm h with ⟨o, ht, ho⟩ | hu
    · exact .inl ⟨o, ht, ho.imp_right .inl⟩
    · exact .inr (.inl hu)
  | other _ src _ _ => cases h; exact .inl ⟨_, rfl, .inl rfl⟩

/-- What processing a frame can do (43_station_processor.md R118). -/
theorem processFrame_cases {f : List Byte} (h : processFrame f s = .next t) :
    (∃ e, decode s.cfg f = .err e ∧ t = s.withOut (errorOut e 0)) ∨
    (∃ i, decode s.cfg f = .ok i ∧ exec i s = .next t) := by
  simp only [processFrame] at h
  split at h
  · exact .inr ⟨_, by assumption, h⟩
  · cases h; exact .inl ⟨_, by assumption, rfl⟩

/-- What one byte can make of an assembler (40_frame_decoder.md R78 to R83). -/
theorem assembleByte_cases {maxLen : Nat} {b : Byte} {a a' : Assembler} {r : AsmResult}
    (h : assembleByte maxLen b a = some (a', r)) :
    (a.astate = .hunt ∧ a' = huntByte b a ∧ r = .quiet) ∨
    (a.astate = .sync1 ∧ b = startOfMsg ∧ a' = ⟨.body, 2, a.buf.set 1 startOfMsg⟩ ∧ r = .quiet) ∨
    (a.astate = .sync1 ∧ b ≠ startOfMsg ∧ a' = ⟨.hunt, 0, a.buf⟩ ∧ r = .quiet) ∨
    (a.astate = .body ∧ a.cnt = maxLen ∧ a' = huntByte b ⟨.hunt, 0, a.buf⟩ ∧ r = .badFraming) ∨
    (a.astate = .body ∧ a.cnt ≠ maxLen ∧ b = startOfMsg ∧ a' = ⟨.sync1, 1, a.buf.set 0 startOfMsg⟩ ∧
      r = .badFraming) ∨
    (a.astate = .body ∧ a.cnt ≠ maxLen ∧ b = endOfMsg ∧ a' = ⟨.hunt, 0, a.buf.set a.cnt endOfMsg⟩ ∧
      r = .frame ((a.buf.set a.cnt endOfMsg).take (a.cnt + 1))) ∨
    (a.astate = .body ∧ a.cnt ≠ maxLen ∧ b ≠ startOfMsg ∧ b ≠ endOfMsg ∧
      a' = ⟨.body, a.cnt + 1, a.buf.set a.cnt b⟩ ∧ r = .quiet) := by
  unfold assembleByte at h
  split at h
  · cases h; simp [*]
  · split at h <;> cases h <;> simp [*]
  · split at h
    · cases h; simp [*]
    · split at h
      · cases h; simp [*]
      · split at h <;> cases h <;> simp [*]
  · cases h

/-- What a FEED can do (45_interface_ops.md R132). -/
theorem feedOp_cases {l : Nat} {b : Byte} (h : feedOp l b s = .next t) :
    l < s.cfg.nLinks ∧ ∃ a a' r, s.asms[l]? = some a ∧ assembleByte s.cfg.maxFrameLen b a = some (a', r) ∧
      finishAssembly r (s.withAsm l a') = .next t := by
  unfold feedOp at h
  split at h
  · cases h
  · refine ⟨by omega, ?_⟩
    split at h
    · cases h
    · split at h
      · cases h
      · exact ⟨_, _, _, by assumption, by assumption, h⟩

/-- What a TICK can do (45_interface_ops.md R134). -/
theorem tickOp_cases (h : tickOp s = .next t) :
    ∃ s' ev, evaluate false s = some (s', ev) ∧ t = s'.withOut (eventOut ev) := by
  unfold tickOp at h
  split at h
  · cases h; exact ⟨_, _, by assumption, rfl⟩
  · cases h

/-- What a step can do (45_interface_ops.md R137): nothing where no operation is pending, or that operation's own
effect. -/
theorem stepPending_cases (h : stepPending s = .next t) :
    s.cfg.wf = true ∧
      ((s.pending = [] ∧ t = s) ∨
       ∃ op rest, s.pending = op :: rest ∧ (s.wasReset = true ∨ op = .reset) ∧
         (s.wasReset = true → s.hasReservedCode = false) ∧ applyOp op (s.withPending rest) = .next t) := by
  unfold stepPending at h
  split at h
  · refine ⟨by assumption, ?_⟩
    split at h
    · cases h; exact .inl ⟨by assumption, rfl⟩
    · rename_i op rest hp
      unfold hostStep at h
      refine .inr ⟨op, rest, hp, ?_⟩
      split at h
      · cases h
      · rename_i h1
        split at h
        · cases h
        · rename_i h2
          simp only [withPending_wasReset, State.hasReservedCode, withPending_mon, withPending_asms] at h1 h2
          refine ⟨?_, ?_, h⟩
          · cases hw : s.wasReset
            · exact .inr (by simpa [hw] using h1)
            · exact .inl rfl
          · intro hw
            rw [hw, Bool.true_and, Bool.not_eq_true] at h2
            exact h2
  · cases h

end Sys2Proof.Machine
end

