-- ==== Sys2Proof/Laws/PerInstr.lean ====
section
/-! SUPPORT. Statements made for every command, one lemma a constructor. -/

namespace Sys2Proof.Laws

/-- The layout of a command's frame (30_encoding.md R50, R51): `6 + D` bytes; the markers, the two addresses and the
command code at their places; the data area from byte 5; the end marker last. -/
def EncodeLayout.Statement (i : Instr) : Prop :=
  ∀ c : Config,
    (encode c i).length = 6 + i.data.length ∧
    (encode c i)[0]? = some startOfMsg ∧ (encode c i)[1]? = some startOfMsg ∧
    (encode c i)[2]? = some (addrOf c i.dest) ∧ (encode c i)[3]? = some (addrOf c i.src) ∧
    (encode c i)[4]? = some i.cmd ∧ (encode c i).getLast? = some endOfMsg ∧
    ∀ j, j < i.data.length → (encode c i)[5 + j]? = i.data[j]?

/-- The layout, from the encoder's text, whatever the command. -/
theorem encodeLayout_all (i : Instr) : EncodeLayout.Statement i := by
  intro c
  refine ⟨?_, rfl, rfl, rfl, rfl, rfl, ?_, fun j hj => ?_⟩
  · simp [encode]; omega
  · rw [encode, List.getLast?_append]; rfl
  · rw [encode, List.append_assoc, List.getElem?_append_right (by simp)]
    rw [show 5 + j - ([startOfMsg, startOfMsg, addrOf c i.dest, addrOf c i.src, i.cmd] : List Byte).length = j by
      simp]
    exact List.getElem?_append_left hj

theorem EncodeLayout.sendFreq (dest src : Party) (data : List Byte) :
    EncodeLayout.Statement (.sendFreq dest src data) := encodeLayout_all _

theorem EncodeLayout.sendMode (dest src : Party) (data : List Byte) :
    EncodeLayout.Statement (.sendMode dest src data) := encodeLayout_all _

theorem EncodeLayout.queryFreq (dest src : Party) (data : List Byte) :
    EncodeLayout.Statement (.queryFreq dest src data) := encodeLayout_all _

theorem EncodeLayout.queryMode (dest src : Party) (data : List Byte) :
    EncodeLayout.Statement (.queryMode dest src data) := encodeLayout_all _

theorem EncodeLayout.other (dest src : Party) (cmd : Byte) (data : List Byte) :
    EncodeLayout.Statement (.other dest src cmd data) := encodeLayout_all _

end Sys2Proof.Laws
end

