-- ==== Sys2Proof/Laws/Safety.lean ====
section
/-! SUPPORT. What the words of Safety say, and what a step is in a state that accepts its next operation. -/

namespace Sys2Proof.Machine

variable {s t : State} {op : HostOp} {rest : List HostOp}

/-- The invariant, clause by clause. -/
theorem inv_iff (s : State) : s.inv = true ↔
    s.cfg.wf = true ∧ s.wasReset = true ∧ s.asms.length = s.cfg.nLinks ∧
    (∀ a ∈ s.asms, Assembler.wf s.cfg.maxFrameLen a = true) ∧ (∀ k, Station.wf s.cfg (s.station k) = true) ∧
    s.mon.mstate ≠ .reserved ∧ (s.mon.mstate ≠ .clear ↔ conflicts s.cfg s.st1.band s.st2.band = true) := by
  have hk : (∀ k, Station.wf s.cfg (s.station k) = true) ↔
      Station.wf s.cfg s.st1 = true ∧ Station.wf s.cfg s.st2 = true :=
    ⟨fun h => ⟨h .one, h .two⟩, fun h k => by cases k; exacts [h.1, h.2]⟩
  have hc : s.coherent = true ↔ (s.mon.mstate ≠ .clear ↔ conflicts s.cfg s.st1.band s.st2.band = true) := by
    simp only [State.coherent, beq_iff_eq]
    rw [Bool.eq_iff_iff]
    simp
  rw [hk]
  simp only [State.inv, State.wf, Bool.and_eq_true, hc, decide_eq_true_eq, List.all_eq_true, bne_iff_ne]
  tauto

/-- A good state holds no reserved code. -/
theorem hasReservedCode_of_inv (h : s.inv = true) : s.hasReservedCode = false := by
  obtain ⟨_, _, _, ha, _, hm, _⟩ := (inv_iff s).1 h
  simp only [State.hasReservedCode, Bool.or_eq_false_iff, decide_eq_false_iff_not, List.any_eq_false, decide_eq_true_eq]
  refine ⟨hm, fun a hmem hr => ?_⟩
  have := ha a hmem
  simp [Assembler.wf, hr] at this

/-- A state without a reserved code has a legal monitor. -/
theorem mstate_of_hasReservedCode (h : s.hasReservedCode = false) : s.mon.mstate ≠ .reserved := by
  simp only [State.hasReservedCode, Bool.or_eq_false_iff, decide_eq_false_iff_not] at h
  exact h.1

/-- A good state accepts whatever is next. -/
theorem opReady_of_inv (h : s.inv = true) (hp : s.pending = op :: rest) : opReady s op rest :=
  ⟨((inv_iff s).1 h).1, ((inv_iff s).1 h).2.1, hasReservedCode_of_inv h, hp⟩

/-- In a state that accepts its next operation, the step is that operation. -/
theorem step_of_ready (h : opReady s op rest) : step s = applyOp op (s.withPending rest) := by
  obtain ⟨h1, h2, h3, h4⟩ := h
  have h5 : (s.withPending rest).hasReservedCode = s.hasReservedCode := rfl
  simp [step, stepPending, h1, h4, hostStep, h2, h3, h5]

/-- A step that answers a next state applied its next operation. -/
theorem applyOp_of_step (hp : s.pending = op :: rest) (h : step s = .next t) :
    s.cfg.wf = true ∧ (s.wasReset = true ∨ op = .reset) ∧ (s.wasReset = true → s.hasReservedCode = false) ∧
      applyOp op (s.withPending rest) = .next t := by
  obtain ⟨h1, ⟨h2, _⟩ | ⟨op', rest', h2, h3, h4, h5⟩⟩ := stepPending_cases h
  · simp [hp] at h2
  · rw [hp] at h2
    cases h2
    exact ⟨h1, h3, h4, h5⟩

/-- A FEED that is next gives its byte to its link's assembler. -/
theorem step_of_feedReady {l : Nat} {b : Byte} {u : Time} {a : Assembler} (h : feedReady s l b u rest a) :
    step s =
      match assembleByte s.cfg.maxFrameLen b a with
      | none => .refused .unreachableState
      | some (a', r) => finishAssembly r ((opStart s u rest).withAsm l a') := by
  obtain ⟨h1, h2, h3⟩ := h
  rw [step_of_ready h1]
  simp only [applyOp, feedOp, withNow_cfg, withPending_cfg, Nat.not_le.2 h2, if_false, withNow_asms,
    withPending_asms, h3]
  rfl

end Sys2Proof.Machine
end

