-- ==== Sys2Proof/Tests/Slice0.lean ====
section
/-! SUPPORT. The model's own tests. Expected values are the vectors of 95_test_vectors.md (named W, V-… and P… as there);
then one witness for every statement that has hypotheses. -/

namespace Sys2Proof.Tests

open Sys2Proof.Machine

/-! ## Helpers -/

/-- The result is a next state that passes `p`. -/
def isNext (r : Result) (p : State → Bool) : Bool :=
  match r with
  | .next t => p t
  | .fault _ => false
  | .refused _ => false

/-- The name of the refusal, if the result is one. -/
def refusal (r : Result) : Option Refusal :=
  match r with
  | .next _ => none
  | .fault _ => none
  | .refused x => some x

theorem next_of_isNext {r : Result} {p : State → Bool} (h : isNext r p = true) : ∃ t, r = .next t ∧ p t = true := by
  cases r with
  | next t => exact ⟨t, rfl, h⟩
  | fault e => cases e
  | refused x => cases h

theorem refused_of_refusal {r : Result} {x : Refusal} (h : refusal r = some x) : r = .refused x := by
  cases r with
  | next t => cases h
  | fault e => cases e
  | refused y => cases h; rfl

/-- The reset state of TC with operations to come. -/
def ready (ops : List HostOp) : State := State.reset.withPending ops

/-- A state of TC with the given bands, monitor and operations to come. -/
def bandsAt (b1 b2 : Byte) (m : MState) (since : Time) (ops : List HostOp) : State :=
  { State.reset with
    st1 := { Station.reset with band := b1 }, st2 := { Station.reset with band := b2 }, mon := ⟨m, since⟩,
    pending := ops }

/-- A state of TC whose link 0 has the given assembler state, with `pre` in the buffer. -/
def asmAt (st : AState) (pre : List Byte) (ops : List HostOp) : State :=
  { State.reset with asms := [⟨st, pre.length, pre ++ List.replicate (16 - pre.length) 0⟩], pending := ops }

/-- TC powered up, before any RESET. -/
def powerUp (ops : List HostOp) : State :=
  { State.reset with wasReset := false, mon := ⟨.reserved, 77⟩, asms := [], pending := ops }

/-- TC with two links. -/
def twoLinks (ops : List HostOp) : State :=
  { State.reset with
    cfg := { Config.test with nLinks := 2 }, asms := List.replicate 2 (Assembler.reset Config.test), pending := ops }

/-- The frame of W1: 14,070,000 Hz from the radio. -/
def frameW1 : List Byte := [0xFE, 0xFE, 0x00, 0x94, 0x03, 0x00, 0x00, 0x07, 0x14, 0xFD]

/-- The frame of W2: 14,074,000 Hz from the controller. -/
def frameW2 : List Byte := [0xFE, 0xFE, 0x94, 0x00, 0x00, 0x00, 0x40, 0x07, 0x14, 0xFD]

/-- The end of P1: 7,074,000 Hz from the radio. -/
def frame40m : List Byte := [0xFE, 0xFE, 0x00, 0x94, 0x03, 0x00, 0x40, 0x07, 0x07, 0xFD]

/-! ## Well-formedness: each check refuses an ill-formed term -/

theorem test_config_tc_wf : Config.test.wf = true := by decide
theorem test_config_radio_is_controller : { Config.test with radioAddr := 0x00 }.wf = false := by decide
theorem test_config_radio_is_end_marker : { Config.test with radioAddr := 0xFD }.wf = false := by decide
theorem test_config_radio_is_start_marker : { Config.test with radioAddr := 0xFE }.wf = false := by decide
theorem test_config_buffer_too_small : { Config.test with maxFrameLen := 9 }.wf = false := by decide
theorem test_config_no_link : { Config.test with nLinks := 0 }.wf = false := by decide
theorem test_config_mode_code_zero : { Config.test with modeTable := [(0x00, 1), (0x01, 0)] }.wf = false := by decide
theorem test_config_pair_code_zero : { Config.test with conflictPairs := [(6, 0)] }.wf = false := by decide
theorem test_config_pair_code_large : { Config.test with conflictPairs := [(15, 6)] }.wf = false := by decide
theorem test_config_hold_zero : { Config.test with holdTime := 0 }.wf = false := by decide
theorem test_config_hold_large : { Config.test with holdTime := 0x80000000 }.wf = false := by decide
theorem test_table_empty : bandTableWf [] = false := by decide
theorem test_table_reversed_bounds : bandTableWf [⟨1, 2⟩, ⟨5, 4⟩] = false := by decide
theorem test_table_overlap : bandTableWf [⟨1, 4⟩, ⟨4, 6⟩] = false := by decide
theorem test_table_unsorted : bandTableWf [⟨7, 8⟩, ⟨1, 2⟩] = false := by decide
theorem test_table_of_256 :
    bandTableWf ((List.range 256).map (fun i => ⟨BitVec.ofNat 32 (2 * i), BitVec.ofNat 32 (2 * i)⟩)) = false := by
  simp [bandTableWf]
theorem test_config_table_checked : { Config.test with bandTable := [⟨5, 4⟩] }.wf = false := by decide
theorem test_instr_other_with_named_code : (Instr.other .controller .radio 0x03 []).wf Config.test = false := by decide
theorem test_instr_data_too_long :
    (Instr.other .controller .radio 0x05 (List.replicate 11 0)).wf Config.test = false := by decide
theorem test_instr_longest_data : (Instr.other .controller .radio 0x05 (List.replicate 10 0)).wf Config.test = true := by
  decide

/-! ## Decoding: words written out from 30_encoding.md R50 and R54 -/

/-- R109's example. -/
theorem test_decode_send_freq : decode Config.test [0xFE, 0xFE, 0x94, 0x00, 0x00, 0x00, 0x40, 0x07, 0x14, 0xFD] =
    .ok (.sendFreq .radio .controller [0x00, 0x40, 0x07, 0x14]) := by decide

/-- R112's example. -/
theorem test_decode_send_mode : decode Config.test [0xFE, 0xFE, 0x94, 0x00, 0x01, 0x03, 0xFD] =
    .ok (.sendMode .radio .controller [0x03]) := by decide

/-- W1. -/
theorem test_decode_query_freq : decode Config.test [0xFE, 0xFE, 0x00, 0x94, 0x03, 0x00, 0x00, 0x07, 0x14, 0xFD] =
    .ok (.queryFreq .controller .radio [0x00, 0x00, 0x07, 0x14]) := by decide

/-- R113's example. -/
theorem test_decode_query_mode : decode Config.test [0xFE, 0xFE, 0x00, 0x94, 0x04, 0x01, 0x02, 0xFD] =
    .ok (.queryMode .controller .radio [0x01, 0x02]) := by decide

/-- V-VAL 17: a marker value as the command code is OTHER. -/
theorem test_decode_other : decode Config.test [0xFE, 0xFE, 0x00, 0x94, 0xFD, 0xFD] =
    .ok (.other .controller .radio 0xFD []) := by decide

/-- V-VAL 1, 2, 3. -/
theorem test_decode_too_short :
    [[], [0x00, 0x00, 0x00], [0xFE, 0xFE, 0x00, 0x94, 0xFD]].map (decode Config.test) =
      List.replicate 3 (.err .tooShort) := by decide

/-- V-VAL 6 to 11. -/
theorem test_decode_bad_framing :
    [[0xFE, 0xFE, 0x00, 0x94, 0x03] ++ List.replicate 11 0x00 ++ [0xFD], [0xFE, 0x00, 0x94, 0x03, 0x00, 0xFD],
      [0x00, 0xFE, 0x00, 0x94, 0x03, 0xFD], [0xFE, 0xFE, 0xFE, 0x00, 0x94, 0x03, 0xFD],
      [0xFE, 0xFE, 0x00, 0x94, 0x03, 0x00, 0x00, 0x07, 0x14], [0xFE, 0xFE, 0x55, 0x94, 0x03, 0x00]].map
        (decode Config.test) = List.replicate 6 (.err .badFraming) := by decide

/-- V-VAL 12, 13, 14. -/
theorem test_decode_bad_address :
    [[0xFE, 0xFE, 0x55, 0x94, 0x03, 0xFD], [0xFE, 0xFE, 0x00, 0x55, 0x03, 0xFD],
      [0xFE, 0xFE, 0x00, 0xFD, 0x03, 0xFD]].map (decode Config.test) = List.replicate 3 (.err .badAddress) := by decide

/-- V-VAL 5, 15, 16. -/
theorem test_decode_accepted :
    [[0xFE, 0xFE, 0x00, 0x94, 0x03] ++ List.replicate 10 0x00 ++ [0xFD], [0xFE, 0xFE, 0x94, 0x94, 0x03, 0xFD],
      [0xFE, 0xFE, 0x00, 0x00, 0x03, 0xFD]].map (decode Config.test) =
    [.ok (.queryFreq .controller .radio (List.replicate 10 0x00)), .ok (.queryFreq .radio .radio []),
      .ok (.queryFreq .controller .controller [])] := by decide

/-- The words of spec/opcode_table.json (log 9). -/
theorem test_table_words :
    [0x00, 0x01, 0x03, 0x04, 0x02].map (decodeTableWord 8) =
      [some (.sendFreq .controller .controller [0, 0, 0, 0]), some (.sendMode .controller .controller [0, 0]),
        some (.queryFreq .controller .controller [0, 0, 0, 0]), some (.queryMode .controller .controller [0, 0]),
        some (.other .controller .controller 0x02 [])] := by decide

/-! ## The value decoders -/

/-- V-BCD. -/
theorem test_bcd :
    [[0x00, 0x00, 0x00, 0x00], [0x01, 0x00, 0x00, 0x00], [0x10, 0x00, 0x00, 0x00], [0x00, 0x01, 0x00, 0x00],
      [0x00, 0x00, 0x01, 0x00], [0x00, 0x00, 0x00, 0x01], [0x99, 0x99, 0x99, 0x99], [0x78, 0x56, 0x34, 0x12]].map
        decodeFrequency =
      [(false, 0), (false, 1), (false, 10), (false, 100), (false, 10000), (false, 1000000), (false, 99999999),
        (false, 12345678)] := by decide

/-- V-BCD 9 to 13. -/
theorem test_bcd_bad :
    [[0x0A, 0x00, 0x00, 0x00], [0xA0, 0x00, 0x00, 0x00], [0x00, 0x00, 0x00, 0xFF], [0x00, 0x00, 0x00, 0x9A],
      [0x00, 0xFD, 0x07, 0x14]].map decodeFrequency = List.replicate 5 (true, 0) := by decide

/-- W3. -/
theorem test_encode_frequency : [14070000, 12345678, 99999999].map encodeFrequency =
    [[0x00, 0x00, 0x07, 0x14], [0x78, 0x56, 0x34, 0x12], [0x99, 0x99, 0x99, 0x99]] := by decide

/-- V-MODE. -/
theorem test_mode : [0x00, 0x01, 0x03, 0x05, 0x08, 0x17, 0x09, 0x0A, 0x42, 0xFF].map (decodeMode Config.test) =
    [1, 2, 4, 6, 9, 10, 0, 0, 0, 0] := by decide

/-- V-BAND. -/
theorem test_band :
    [0, 1799999, 1800000, 2000000, 2000001, 5351500, 6999999, 7000000, 7300000, 7300001, 14070000, 14350000, 14350001,
      18100000, 21000000, 29700000, 54000000, 99999999, 450000000, 4294967295].map (bandFor Config.test) =
    [0, 0, 1, 1, 0, 3, 0, 4, 4, 0, 6, 6, 0, 7, 8, 10, 11, 0, 14, 0] := by decide

/-! ## The commands, one step each -/

/-- R109's example. -/
theorem test_send_freq : isNext (step (ready [.frame frameW2 2000])) (fun t =>
    t.st2 = ⟨6, 0, 0, false, 2000⟩ ∧ t.st1 = Station.reset ∧ t.mon = ⟨.clear, 0⟩ ∧
      t.out = ⟨.freq, 2, 14074000, 6, 0, .noEvent⟩) = true := by decide

/-- V-DISP 4: three data bytes. -/
theorem test_send_freq_short_data :
    isNext (step (ready [.frame [0xFE, 0xFE, 0x00, 0x94, 0x00, 0x00, 0x00, 0x07, 0xFD] 1000])) (fun t =>
      t.st1 = Station.reset ∧ t.out = ⟨.badEncoding, 1, 0, 0, 0, .noEvent⟩) = true := by decide

/-- P1 step 6: the band change clears the alert in the same operation. -/
theorem test_query_freq_clears : isNext (step (bandsAt 6 6 .alerting 2000 [.frame frame40m 8000])) (fun t =>
    t.st1 = ⟨4, 0, 0, false, 8000⟩ ∧ t.mon = ⟨.clear, 2000⟩ ∧ t.out = ⟨.freq, 1, 7074000, 4, 0, .clear⟩) = true := by
  decide

/-- V-DISP 14: a marker value as data. -/
theorem test_query_freq_bad_nibble :
    isNext (step (ready [.frame [0xFE, 0xFE, 0x00, 0x94, 0x03, 0x00, 0xFD, 0x07, 0x14, 0xFD] 1000])) (fun t =>
      t.st1 = Station.reset ∧ t.out = ⟨.badEncoding, 1, 0, 0, 0, .noEvent⟩) = true := by decide

/-- V-DISP 7. -/
theorem test_send_mode :
    isNext (step (ready [.frame [0xFE, 0xFE, 0x00, 0x94, 0x01, 0x05, 0x03, 0xFD] 1000])) (fun t =>
      t.st1 = ⟨0, 6, 3, true, 0⟩ ∧ t.out = ⟨.mode, 1, 0, 0, 6, .noEvent⟩) = true := by decide

/-- V-DISP 9: three data bytes. -/
theorem test_send_mode_long_data :
    isNext (step (ready [.frame [0xFE, 0xFE, 0x00, 0x94, 0x01, 0x05, 0x03, 0x01, 0xFD] 1000])) (fun t =>
      t.st1 = Station.reset ∧ t.out = ⟨.badEncoding, 1, 0, 0, 0, .noEvent⟩) = true := by decide

/-- P3 step 4: an unknown mode byte and no filter byte. -/
theorem test_query_mode_unknown :
    isNext (step { ready [.frame [0xFE, 0xFE, 0x00, 0x94, 0x04, 0x42, 0xFD] 30] with
      st1 := ⟨0, 2, 2, true, 0⟩ }) (fun t =>
      t.st1 = Station.reset ∧ t.out = ⟨.mode, 1, 0, 0, 0, .noEvent⟩) = true := by decide

/-- W10. -/
theorem test_other :
    isNext (step (ready [.frame [0xFE, 0xFE, 0x00, 0x94, 0x05, 0x00, 0x00, 0x07, 0x14, 0xFD] 70])) (fun t =>
      t.st1 = Station.reset ∧ t.out = ⟨.ignored, 1, 0, 0, 0, .noEvent⟩) = true := by decide

/-- A table word runs as the first operation after reset: SEND_FREQ of 0 Hz (R111: 0 Hz is valid and gives band 0). -/
theorem test_fetch_word : isNext (step (State.reset.withFetchWord 8 0x00)) (fun t =>
    t.st2 = Station.reset ∧ t.pending = [] ∧ t.out = ⟨.freq, 2, 0, 0, 0, .noEvent⟩) = true := by decide

/-! ## The assembler -/

/-- V-ASM 4, its last byte. -/
theorem test_feed_too_short :
    isNext (step (asmAt .body [0xFE, 0xFE, 0x94, 0x00] [.feed 0 0xFD 0])) (fun t =>
      t.out.status = .tooShort ∧ t.asms.map (fun a => (a.astate, a.cnt)) = [(.hunt, 0)]) = true := by decide

/-- V-ASM 8, its last byte. -/
theorem test_feed_abandon :
    isNext (step (asmAt .body [0xFE, 0xFE, 0x00, 0x94, 0x03, 0x00] [.feed 0 0xFE 0])) (fun t =>
      t.out.status = .badFraming ∧ t.asms.map (fun a => (a.astate, a.cnt)) = [(.sync1, 1)]) = true := by decide

/-- V-ASM 10, its last byte: the buffer is full. -/
theorem test_feed_overflow :
    isNext (step (asmAt .body ([0xFE, 0xFE, 0x00, 0x94, 0x03] ++ List.replicate 11 0x01) [.feed 0 0xFD 0])) (fun t =>
      t.out.status = .badFraming ∧ t.asms.map (fun a => (a.astate, a.cnt)) = [(.hunt, 0)]) = true := by decide

/-- V-ASM 12, its last byte. -/
theorem test_feed_completes :
    isNext (step (asmAt .body [0xFE, 0xFE, 0x00, 0x94, 0x03, 0x00, 0x00, 0x07, 0x14] [.feed 0 0xFD 100])) (fun t =>
      t.out = ⟨.freq, 1, 14070000, 6, 0, .noEvent⟩ ∧ t.st1.lastChange = 100 ∧
        t.asms.map (fun a => (a.astate, a.cnt)) = [(.hunt, 0)]) = true := by decide

/-! ## The monitor -/

/-- V-MON 1 to 13, as the monitor and the event. -/
theorem test_monitor :
    [(true, bandsAt 0 0 .clear 9 [], (100 : Time)), (true, bandsAt 6 0 .clear 9 [], 100), (true, bandsAt 6 6 .clear 9 [], 100),
      (false, bandsAt 6 6 .holding 100 [], 100), (false, bandsAt 6 6 .holding 100 [], 5099),
      (true, bandsAt 6 6 .holding 100 [], 5100), (false, bandsAt 6 6 .holding 100 [], 5100),
      (true, bandsAt 6 4 .holding 100 [], 200), (false, bandsAt 6 6 .holding 0xFFFFF000 [], 0x00000387),
      (false, bandsAt 6 6 .holding 0xFFFFF000 [], 0x00000388), (false, bandsAt 6 6 .alerting 100 [], 9000),
      (true, bandsAt 6 4 .alerting 100 [], 9000), (true, bandsAt 0 6 .alerting 100 [], 9000)].map
        (fun x => (evaluate x.1 (x.2.1.withNow x.2.2)).map (fun r => (r.1.mon, r.2))) =
      [some (⟨.clear, 9⟩, .noEvent), some (⟨.clear, 9⟩, .noEvent), some (⟨.holding, 100⟩, .noEvent),
        some (⟨.holding, 100⟩, .noEvent), some (⟨.holding, 100⟩, .noEvent), some (⟨.holding, 5100⟩, .noEvent),
        some (⟨.alerting, 100⟩, .raise), some (⟨.clear, 100⟩, .noEvent), some (⟨.holding, 0xFFFFF000⟩, .noEvent),
        some (⟨.alerting, 0xFFFFF000⟩, .raise), some (⟨.alerting, 100⟩, .noEvent), some (⟨.clear, 100⟩, .clear),
        some (⟨.clear, 100⟩, .clear)] := by decide

/-- The pairs after V-MON, with `CONFLICT_PAIRS = {{6, 7}}`. -/
theorem test_conflict_pairs :
    [(6, 7), (7, 6), (7, 7), (6, 8), (0, 0)].map
      (fun p => conflicts { Config.test with conflictPairs := [(6, 7)] } p.1 p.2) =
      [true, true, true, false, false] := by decide

/-! ## Host operations and refusals (V-OPS) -/

/-- V-OPS 1, 2: before any RESET. -/
theorem test_before_reset :
    [refusal (step (powerUp [.tick 0])), refusal (step (powerUp [.frame [0xFE, 0xFE, 0x00, 0x94, 0x03, 0xFD] 0]))] =
      [some .beforeReset, some .beforeReset] := by decide

/-- V-OPS 3: the first RESET of a powered-up block. -/
theorem test_first_reset : isNext (step (powerUp [.reset])) (fun t => decide (t = State.reset)) = true := by decide

/-- V-OPS 5: RESET while ALERTING emits no event. -/
theorem test_reset_alerting : isNext (step (bandsAt 6 6 .alerting 100 [.reset])) (fun t =>
    decide (t = State.reset) && !t.alert) = true := by decide

/-- V-OPS 7: a link that does not exist. -/
theorem test_bad_link : refusal (step (ready [.feed 1 0xFE 0])) = some .badLink := by decide

/-- V-OPS 8: a reserved monitor code. -/
theorem test_unreachable : refusal (step (bandsAt 6 6 .reserved 0 [.tick 5])) = some .unreachableState := by decide

/-- V-OPS 9: a configuration that is not well-formed. -/
theorem test_no_instance :
    refusal (step { ready [.reset] with cfg := { Config.test with holdTime := 0 } }) = some .configNotWellFormed := by
  decide

/-! ## Witnesses

For every statement with hypotheses, concrete inputs that meet them all, clause by clause, at the ends of the ranges. -/

theorem test_witness_ConfigCheckSaysRule :
    ({ Config.test with maxFrameLen := 10, holdTime := 1 }.wf = true ∧ { Config.test with holdTime := 0x7FFFFFFF }.wf = true) ∧
    { ready [] with cfg := { Config.test with maxFrameLen := 9 } }.cfg.wf = false ∧
    (∃ t, step (ready [.tick 5]) = .next t) :=
  ⟨by decide, by decide, _, rfl⟩

theorem test_witness_DecodeOfEncode :
    Config.test.wf = true ∧ (Instr.sendFreq .radio .controller [0x00, 0x40, 0x07, 0x14]).wf Config.test = true ∧
    (Instr.sendMode .radio .radio []).wf Config.test = true ∧ (Instr.queryFreq .controller .radio [0xFD]).wf Config.test = true ∧
    (Instr.queryMode .controller .radio [0x01, 0x02]).wf Config.test = true ∧
    (Instr.other .controller .radio 0x05 (List.replicate 10 0)).wf Config.test = true := by decide

theorem test_witness_EncodeOfDecode :
    decode Config.test frameW1 = .ok (.queryFreq .controller .radio [0x00, 0x00, 0x07, 0x14]) := by decide

/-- Lengths 5, 6, 16 and 17; each framing fault alone; each address at fault; equal addresses. -/
theorem test_witness_ValidatorFirstFailedCheckDecides :
    [0xFE, 0xFE, 0x00, 0x94, 0xFD].length < 6 ∧ Config.test.maxFrameLen < (List.replicate 17 (0xFE : Byte)).length ∧
    (let f : List Byte := [0xFE, 0xFE, 0xFE, 0x94, 0x03, 0xFD]
     6 ≤ f.length ∧ f.length ≤ Config.test.maxFrameLen ∧ f[2]? = some 0xFE) ∧
    (let f : List Byte := [0xFE, 0xFE, 0x00, 0x55, 0x03, 0xFD]
     6 ≤ f.length ∧ f.length ≤ Config.test.maxFrameLen ∧
      (f[0]? = some 0xFE ∧ f[1]? = some 0xFE ∧ f[2]? ≠ some 0xFE ∧ f[f.length - 1]? = some 0xFD) ∧
      f[3]? ≠ some 0x00 ∧ f[3]? ≠ some Config.test.radioAddr) ∧
    (let f : List Byte := [0xFE, 0xFE, 0x94, 0x94, 0x03] ++ List.replicate 10 0 ++ [0xFD]
     6 ≤ f.length ∧ f.length ≤ Config.test.maxFrameLen ∧
      (f[0]? = some 0xFE ∧ f[1]? = some 0xFE ∧ f[2]? ≠ some 0xFE ∧ f[f.length - 1]? = some 0xFD) ∧
      f[2]? = some Config.test.radioAddr ∧ f[3]? = some Config.test.radioAddr) := by decide

/-- A low nibble of 10, a high nibble of 10, and all nibbles at 9. -/
theorem test_witness_FrequencyDecodeValue :
    ¬((0x0A : Byte).toNat % 16 ≤ 9) ∧ ¬((0xA0 : Byte).toNat / 16 ≤ 9) ∧
    (0x99 : Byte).toNat / 16 ≤ 9 ∧ (0x99 : Byte).toNat % 16 ≤ 9 := by decide

theorem test_witness_FrequencyRoundTrip :
    99999999 ≤ 99999999 ∧ ([0x99, 0x99, 0x99, 0x99] : List Byte).length = 4 ∧
    decodeFrequency [0x99, 0x99, 0x99, 0x99] = (false, 99999999) := by decide

theorem test_witness_ModeLookup :
    (Config.test.modeTable.map Prod.fst).Nodup ∧ (0x17, 10) ∈ Config.test.modeTable ∧
    ∀ code, (0x42, code) ∉ Config.test.modeTable :=
  ⟨by decide, by decide, by simp [Config.test, defaultModeTable]⟩

/-- Both ends of the 40m entry, and the frequency just above it. -/
theorem test_witness_BandLookup :
    bandTableWf Config.test.bandTable = true ∧ Config.test.bandTable[3]? = some ⟨7000000, 7300000⟩ ∧
    ((7000000 : Word) ≤ 7000000 ∧ (7000000 : Word) ≤ 7300000) ∧ ((7000000 : Word) ≤ 7300000 ∧ (7300000 : Word) ≤ 7300000) ∧
    ∀ r ∈ Config.test.bandTable, ¬(r.low ≤ 7300001 ∧ (7300001 : Word) ≤ r.high) := by decide

/-- No data, three and five bytes, four with a bad nibble, an unchanged band, and a changed one. -/
theorem test_witness_FreqCommandResult :
    (ready []).mon.mstate ≠ .reserved ∧ ([] : List Byte).length = 0 ∧
    ([0, 0, 0] : List Byte).length ≠ 4 ∧ ([0, 0, 0, 0, 0] : List Byte).length ≠ 4 ∧
    (decodeFrequency [0, 0, 0, 0xFF]).1 = true ∧
    ((decodeFrequency [0, 0, 0, 0]).1 = false ∧
      bandFor (ready []).cfg (decodeFrequency [0, 0, 0, 0]).2 = ((ready []).station (stationOf (ready []).cfg .radio)).band) ∧
    ((decodeFrequency [0, 0, 7, 0x14]).1 = false ∧
      bandFor (ready []).cfg (decodeFrequency [0, 0, 7, 0x14]).2 ≠
        ((ready []).station (stationOf (ready []).cfg .radio)).band) := by decide

theorem test_witness_ModeCommandResult :
    ([] : List Byte).length = 0 ∧ 3 ≤ ([1, 2, 3] : List Byte).length ∧
    isNext (exec (.sendMode .radio .controller [0x03]) (ready [])) (fun _ => true) = true ∧
    isNext (exec (.queryMode .radio .controller [0x03, 0x02]) (ready [])) (fun _ => true) = true := by decide

/-- A changed band, which goes into a conflict, and an unchanged one. -/
theorem test_witness_FreqCommandFrame :
    (∃ t, exec (.sendFreq .radio .controller [0x00, 0x40, 0x07, 0x14]) (bandsAt 6 0 .clear 0 []) = .next t ∧
      decide (t.st2.band ≠ 0 ∧ t.mon.mstate = .holding) = true) ∧
    (∃ t, exec (.queryFreq .radio .controller [0x00, 0x40, 0x07, 0x14]) (bandsAt 6 6 .holding 0 []) = .next t ∧
      decide (t.st2.band = 6) = true) :=
  ⟨next_of_isNext (by decide), next_of_isNext (by decide)⟩

theorem test_witness_ModeCommandFrame :
    (∃ t, exec (.sendMode .radio .controller [0x03]) (ready []) = .next t ∧ decide (t.st2.mode = 4) = true) ∧
    (∃ t, exec (.queryMode .radio .controller [0x03, 0x02]) (ready []) = .next t ∧ t.st2.filterValid = true) :=
  ⟨next_of_isNext (by decide), next_of_isNext (by decide)⟩

theorem test_witness_StepRunsDecodedFrame :
    opReady (ready [.frame frameW1 1000]) (.frame frameW1 1000) [] ∧
    decode (ready [.frame frameW1 1000]).cfg frameW1 = .ok (.queryFreq .controller .radio [0x00, 0x00, 0x07, 0x14]) :=
  ⟨⟨by decide, by decide, by decide, by decide⟩, by decide⟩

theorem test_witness_StepReportsRejectedFrame :
    opReady (ready [.frame [0x00] 1000]) (.frame [0x00] 1000) [] ∧
    decode (ready [.frame [0x00] 1000]).cfg [0x00] = .err .tooShort :=
  ⟨⟨by decide, by decide, by decide, by decide⟩, by decide⟩

/-- One operation for each of the five statuses. -/
theorem test_witness_ErrorWritesNoRecord :
    (∃ t, step (ready [.frame [] 1]) = .next t ∧ decide (t.out.status = .tooShort) = true) ∧
    (∃ t, step (asmAt .body [0xFE, 0xFE] [.feed 0 0xFE 1]) = .next t ∧ decide (t.out.status = .badFraming) = true) ∧
    (∃ t, step (ready [.frame [0xFE, 0xFE, 0x55, 0x94, 0x03, 0xFD] 1]) = .next t ∧
      decide (t.out.status = .badAddress) = true) ∧
    (∃ t, step (ready [.frame [0xFE, 0xFE, 0x94, 0x94, 0x03, 0x00, 0xFD] 1]) = .next t ∧
      decide (t.out.status = .badEncoding) = true) ∧
    (∃ t, step (ready [.frame [0xFE, 0xFE, 0x94, 0x94, 0x03, 0xFD] 1]) = .next t ∧
      decide (t.out.status = .ignored) = true) :=
  ⟨next_of_isNext (by decide), next_of_isNext (by decide), next_of_isNext (by decide), next_of_isNext (by decide),
    next_of_isNext (by decide)⟩

theorem test_witness_FrameWritesOwnStationOnly :
    decode (bandsAt 6 0 .clear 0 []).cfg frameW2 = .ok (.sendFreq .radio .controller [0x00, 0x40, 0x07, 0x14]) ∧
    ∃ t, processFrame frameW2 (bandsAt 6 0 .clear 0 []) = .next t ∧ decide (t.mon = ⟨.holding, 0⟩) = true :=
  ⟨by decide, next_of_isNext (by decide)⟩

/-- A station whose band changes, by a FRAME and by a FEED, and one whose band stays. -/
theorem test_witness_LastChangeMarksBandChange :
    HostOp.frame frameW2 2000 ≠ .reset ∧
    (∃ t, step (bandsAt 6 0 .clear 0 [.frame frameW2 2000]) = .next t ∧
      decide (t.st2.lastChange = 2000 ∧ t.st1.lastChange = 0) = true) ∧
    (∃ t, step (asmAt .body [0xFE, 0xFE, 0x00, 0x94, 0x03, 0x00, 0x00, 0x07, 0x14] [.feed 0 0xFD 100]) = .next t ∧
      decide (t.st1.band = 6 ∧ t.st1.lastChange = 100) = true) :=
  ⟨by decide, next_of_isNext (by decide), next_of_isNext (by decide)⟩

theorem test_witness_FeedBeforeBody :
    feedReady (asmAt .hunt [] [.feed 0 0xFE 1]) 0 0xFE 1 [] ⟨.hunt, 0, List.replicate 16 0⟩ ∧
    feedReady (asmAt .hunt [] [.feed 0 0xFD 1]) 0 0xFD 1 [] ⟨.hunt, 0, List.replicate 16 0⟩ ∧
    feedReady (asmAt .sync1 [0xFE] [.feed 0 0xFE 1]) 0 0xFE 1 [] ⟨.sync1, 1, 0xFE :: List.replicate 15 0⟩ ∧
    feedReady (asmAt .sync1 [0xFE] [.feed 0 0xFF 1]) 0 0xFF 1 [] ⟨.sync1, 1, 0xFE :: List.replicate 15 0⟩ := by
  unfold feedReady opReady
  decide

/-- The last free cell, and the first cell after the markers. -/
theorem test_witness_FeedInBody :
    (feedReady (asmAt .body (0xFE :: List.replicate 14 1) [.feed 0 0xFC 1]) 0 0xFC 1 []
      ⟨.body, 15, 0xFE :: List.replicate 14 1 ++ [0]⟩ ∧ 15 < Config.test.maxFrameLen) ∧
    feedReady (asmAt .body [0xFE, 0xFE] [.feed 0 0xFE 1]) 0 0xFE 1 []
      ⟨.body, 2, 0xFE :: 0xFE :: List.replicate 14 0⟩ := by
  unfold feedReady opReady
  decide

theorem test_witness_FeedCompletesFrame :
    (feedReady (asmAt .body (0xFE :: List.replicate 14 1) [.feed 0 0xFD 1]) 0 0xFD 1 []
      ⟨.body, 15, 0xFE :: List.replicate 14 1 ++ [0]⟩ ∧ 15 < Config.test.maxFrameLen) ∧
    (0xFE :: List.replicate 14 1 ++ [0] : List Byte).length = Config.test.maxFrameLen := by
  unfold feedReady opReady
  decide

theorem test_witness_FeedOverflows :
    feedReady (asmAt .body (List.replicate 16 0xFE) [.feed 0 0xFE 1]) 0 0xFE 1 [] ⟨.body, 16, List.replicate 16 0xFE⟩ ∧
    feedReady (asmAt .body (List.replicate 16 0xFE) [.feed 0 0xFD 1]) 0 0xFD 1 [] ⟨.body, 16, List.replicate 16 0xFE⟩ ∧
    Config.test.maxFrameLen = 16 := by
  unfold feedReady opReady
  decide

/-- The shortest and the longest frame of a buffer of 16 cells. -/
theorem test_witness_AssembledFramesAreFramed :
    Assembler.wf 16 ⟨.body, 2, 0xFE :: 0xFE :: List.replicate 14 0⟩ = true ∧
    assembleByte 16 0xFD ⟨.body, 2, 0xFE :: 0xFE :: List.replicate 14 0⟩ =
      some (⟨.hunt, 0, 0xFE :: 0xFE :: 0xFD :: List.replicate 13 0⟩, .frame [0xFE, 0xFE, 0xFD]) ∧
    Assembler.wf 16 ⟨.body, 15, 0xFE :: 0xFE :: List.replicate 14 0⟩ = true ∧
    assembleByte 16 0xFD ⟨.body, 15, 0xFE :: 0xFE :: List.replicate 14 0⟩ =
      some (⟨.hunt, 0, 0xFE :: 0xFE :: List.replicate 13 0 ++ [0xFD]⟩,
        .frame (0xFE :: 0xFE :: List.replicate 13 0 ++ [0xFD])) := by decide

/-- An empty body and one of 13 bytes, the longest, on the second of two links. -/
theorem test_witness_FeedingAFrameIsFraming :
    ∀ body ∈ [[], [0x00, 0x94, 0x03, 0x00, 0x00, 0x07, 0x14], List.replicate 13 (0x01 : Byte)],
      let s := twoLinks (feeds 1 7 ([0xFE, 0xFE] ++ body ++ [0xFD]) ++ [.tick 8])
      s.cfg.wf = true ∧ s.wasReset = true ∧ s.hasReservedCode = false ∧ 1 < s.cfg.nLinks ∧
      s.asms[1]? = some (Assembler.reset Config.test) ∧ (Assembler.reset Config.test).astate = .hunt ∧
      (Assembler.reset Config.test).buf.length = s.cfg.maxFrameLen ∧ body.all notMarker = true ∧
      body.length + 3 ≤ s.cfg.maxFrameLen := by decide

theorem test_witness_OtherAssemblersUntouched :
    (∃ t, step (twoLinks [.frame frameW1 1]) = .next t ∧ decide (t.asms.length = 2) = true) ∧
    (∃ t, step (twoLinks [.tick 1]) = .next t ∧ decide (t.asms.length = 2) = true) ∧
    (∃ t, step (twoLinks [.feed 1 0xFE 1]) = .next t ∧ decide (t.asms.map (fun a => a.cnt) = [0, 1]) = true) :=
  ⟨next_of_isNext (by decide), next_of_isNext (by decide), next_of_isNext (by decide)⟩

/-- A state for each of the eight clauses; elapsed times 5000 and 4999. -/
theorem test_witness_EvaluationTransitions :
    conflicts Config.test 6 6 = true ∧ conflicts Config.test 6 4 = false ∧
    (bandsAt 6 6 .clear 0 []).mon.mstate = .clear ∧ (bandsAt 6 4 .clear 0 []).mon.mstate = .clear ∧
    (bandsAt 6 4 .holding 0 []).mon.mstate = .holding ∧ (bandsAt 6 6 .holding 0 []).mon.mstate = .holding ∧
    (elapsed 0x00000388 0xFFFFF000).toNat ≥ Config.test.holdTime.toNat ∧
    (elapsed 0x00000387 0xFFFFF000).toNat < Config.test.holdTime.toNat ∧
    (bandsAt 6 4 .alerting 0 []).mon.mstate = .alerting ∧ (bandsAt 6 6 .alerting 0 []).mon.mstate = .alerting := by
  decide

/-- Two states that differ in a mode and a time of last change. -/
theorem test_witness_EvaluationReadsBandsOnly :
    let s := bandsAt 6 6 .holding 100 []
    let u := { s with st1 := { s.st1 with mode := 4, lastChange := 9 } }
    s.cfg = u.cfg ∧ s.st1.band = u.st1.band ∧ s.st2.band = u.st2.band ∧ s.mon = u.mon ∧ s.now = u.now ∧ s ≠ u ∧
    evaluate true s = some (s.withMon ⟨.holding, 0⟩, .noEvent) ∧
    evaluate true u = some (u.withMon ⟨.holding, 0⟩, .noEvent) := by decide

theorem test_witness_TickResult :
    opReady (bandsAt 6 6 .holding 100 [.tick 5100]) (.tick 5100) [] ∧
    (bandsAt 6 6 .holding 100 [.tick 5100]).coherent = true := by
  unfold opReady
  decide

/-- The raising edge, the clearing edge, neither, and a RESET. -/
theorem test_witness_EventsMarkAlertEdges :
    (∃ t, step (bandsAt 6 6 .holding 100 [.tick 5100]) = .next t ∧ decide (t.out.event = .raise) = true) ∧
    (∃ t, step (bandsAt 6 6 .alerting 100 [.frame frame40m 8000]) = .next t ∧ decide (t.out.event = .clear) = true) ∧
    (∃ t, step (bandsAt 6 6 .alerting 100 [.tick 9000]) = .next t ∧ decide (t.out.event = .noEvent) = true) ∧
    (∃ t, step (bandsAt 6 6 .alerting 100 [.reset]) = .next t ∧ decide (t.out.event = .noEvent) = true) :=
  ⟨next_of_isNext (by decide), next_of_isNext (by decide), next_of_isNext (by decide), next_of_isNext (by decide)⟩

theorem test_witness_OnlyTickRaisesAlert :
    (bandsAt 6 6 .holding 100 [.tick 5100]).alert = false ∧
    ∃ t, step (bandsAt 6 6 .holding 100 [.tick 5100]) = .next t ∧ t.alert = true :=
  ⟨by decide, next_of_isNext (by decide)⟩

/-- A TICK one millisecond too early, and a mode frame. -/
theorem test_witness_HoldKeptUntilHoldTime :
    (bandsAt 6 6 .holding 100 [.tick 5099]).inv = true ∧ (elapsed 5099 100).toNat < Config.test.holdTime.toNat ∧
    (∃ t, step (bandsAt 6 6 .holding 100 [.tick 5099]) = .next t ∧ decide (t.st1.band = 6 ∧ t.st2.band = 6) = true) ∧
    (∃ t, step (bandsAt 6 6 .holding 100 [.frame [0xFE, 0xFE, 0x94, 0x00, 0x01, 0x03, 0xFD] 9999]) = .next t ∧
      decide (t.st1.band = 6 ∧ t.st2.band = 6) = true) :=
  ⟨by decide, by decide, next_of_isNext (by decide), next_of_isNext (by decide)⟩

/-- P4's times: TICKs up to the last millisecond before the hold time, over the wrap, then one at it. -/
theorem test_witness_DebounceByTicks :
    let s := bandsAt 6 6 .holding 0xFFFFF000 [.tick 0xFFFFF000, .tick 903, .tick 904]
    s.inv = true ∧ s.mon.mstate = .holding ∧
    (∀ x ∈ ([0xFFFFF000, 903] : List Time), (elapsed x s.mon.since).toNat < s.cfg.holdTime.toNat) ∧
    (elapsed 904 s.mon.since).toNat ≥ s.cfg.holdTime.toNat ∧
    s.pending = ([0xFFFFF000, 903] : List Time).map .tick ++ .tick 904 :: [] := by
  refine ⟨by decide, rfl, fun x hx => ?_, by decide, rfl⟩
  simp only [List.mem_cons, List.not_mem_nil, or_false] at hx
  obtain rfl | rfl := hx <;> decide

/-- A band change that ends the conflict, and a TICK that leaves it. -/
theorem test_witness_AlertClearsAtOnce :
    (bandsAt 6 6 .alerting 100 []).inv = true ∧
    (∃ t, step (bandsAt 6 6 .alerting 100 [.frame frame40m 8000]) = .next t ∧
      decide (conflicts t.cfg t.st1.band t.st2.band = false) = true) ∧
    (∃ t, step (bandsAt 6 6 .alerting 100 [.tick 8000]) = .next t ∧
      decide (conflicts t.cfg t.st1.band t.st2.band = true) = true) :=
  ⟨by decide, next_of_isNext (by decide), next_of_isNext (by decide)⟩

theorem test_witness_TickInGoodState :
    (bandsAt 6 6 .holding 100 [.tick 5100]).inv = true ∧ (elapsed 5100 100).toNat ≥ Config.test.holdTime.toNat ∧
    (bandsAt 6 6 .holding 100 [.tick 5099]).inv = true ∧ ¬((elapsed 5099 100).toNat ≥ Config.test.holdTime.toNat) ∧
    (bandsAt 6 4 .clear 100 [.tick 5100]).inv = true := by decide

theorem test_witness_StepKeepsInvariant :
    (bandsAt 6 6 .alerting 100 [.frame frame40m 8000]).inv = true ∧
    ∃ t, step (bandsAt 6 6 .alerting 100 [.frame frame40m 8000]) = .next t ∧ decide (t.mon.mstate = .clear) = true :=
  ⟨by decide, next_of_isNext (by decide)⟩

/-- A powered-up block that breaks the invariant. -/
theorem test_witness_ResetEstablishesInvariant :
    (powerUp [.reset]).inv = false ∧ ∃ t, step (powerUp [.reset]) = .next t ∧ t.inv = true :=
  ⟨by decide, next_of_isNext (by decide)⟩

theorem test_witness_GoodStatesRunOn :
    let s := twoLinks [.feed 1 0xFE 1, .frame frameW1 2, .tick 3, .reset]
    s.inv = true ∧ linksOk s.cfg.nLinks s.pending = true := by decide

/-- A first RESET and a later one. -/
theorem test_witness_ResetOperation :
    (let s := { powerUp [.reset] with mon := ⟨.alerting, 77⟩ }
     s.cfg.wf = true ∧ s.wasReset = false ∧ s.hasReservedCode = false ∧ s.pending = .reset :: []) ∧
    (let s := bandsAt 6 6 .alerting 100 [.reset]
     s.cfg.wf = true ∧ s.wasReset = true ∧ s.hasReservedCode = false ∧ s.pending = .reset :: []) := by
  decide

/-- A powered-up block with a reserved code. -/
theorem test_witness_FirstResetFromAnyState :
    (powerUp [.reset]).cfg.wf = true ∧ (powerUp [.reset]).wasReset = false ∧ (powerUp [.reset]).hasReservedCode = true ∧
    (powerUp [.reset]).pending = .reset :: [] := by decide

theorem test_witness_BadConfigurationRefused :
    { ready [] with cfg := { Config.test with holdTime := 0 } }.cfg.wf = false := by decide

theorem test_witness_RefusedBeforeReset :
    (powerUp [.tick 0]).cfg.wf = true ∧ (powerUp [.tick 0]).wasReset = false ∧ HostOp.tick 0 ≠ .reset := by decide

/-- One state for each of the four refusals. -/
theorem test_witness_RefusalsExactly :
    (step { ready [.tick 0] with cfg := { Config.test with nLinks := 0 }, asms := [] } = .refused .configNotWellFormed) ∧
    (step { powerUp [.tick 0] with asms := [Assembler.reset Config.test] } = .refused .beforeReset) ∧
    (step (asmAt .reserved [] [.reset]) = .refused .unreachableState) ∧
    (step (ready [.feed 1 0xFE 0]) = .refused .badLink) :=
  ⟨refused_of_refusal (by decide), refused_of_refusal (by decide), refused_of_refusal (by decide),
    refused_of_refusal (by decide)⟩

theorem test_witness_ResetIdempotent :
    (bandsAt 6 6 .alerting 100 [.reset, .reset]).pending = .reset :: .reset :: [] ∧
    ∃ t, step (bandsAt 6 6 .alerting 100 [.reset, .reset]) = .next t ∧ decide (t.pending = [.reset]) = true :=
  ⟨rfl, next_of_isNext (by decide)⟩

theorem test_witness_IdleKeepsState : (ready []).cfg.wf = true ∧ (ready []).pending = [] := by decide

theorem test_witness_LaterOperationsNotSeen :
    ∃ t, step ((ready []).withPending (.frame frameW1 1 :: [.tick 2])) = .next t ∧ decide (t.pending = [.tick 2]) = true :=
  next_of_isNext (by decide)

theorem test_witness_EarlierOutputNotSeen : (ready [.tick 2]).pending = .tick 2 :: [] := rfl

/-- A status of each kind: a frequency, a mode, an error without a station, and none with an event. -/
theorem test_witness_OutputFieldsApply :
    (∃ t, step (ready [.frame frameW1 1]) = .next t ∧ decide (t.out.status = .freq) = true) ∧
    (∃ t, step (ready [.frame [0xFE, 0xFE, 0x94, 0x00, 0x01, 0x03, 0xFD] 1]) = .next t ∧
      decide (t.out.status = .mode) = true) ∧
    (∃ t, step (ready [.frame [] 1]) = .next t ∧ decide (t.out.status = .tooShort) = true) ∧
    (∃ t, step (bandsAt 6 6 .holding 100 [.tick 5100]) = .next t ∧ decide (t.out.event ≠ .noEvent) = true) :=
  ⟨next_of_isNext (by decide), next_of_isNext (by decide), next_of_isNext (by decide), next_of_isNext (by decide)⟩

/-- A state after a RESET; a RESET step; two states that differ in `MON.since` and an assembler alone. -/
theorem test_witness_PortsShowState :
    ((bandsAt 6 4 .clear 7 []).cfg.wf = true ∧ (bandsAt 6 4 .clear 7 []).wasReset = true) ∧
    (∃ t, step (bandsAt 6 6 .alerting 7 [.reset]) = .next t ∧ t.wasReset = true) ∧
    (let s := bandsAt 6 4 .clear 7 []
     let u := { s with mon := ⟨.clear, 8⟩, asms := [] }
     s.cfg = u.cfg ∧ s.wasReset = u.wasReset ∧ s.st1 = u.st1 ∧ s.st2 = u.st2 ∧ s.mon.mstate = u.mon.mstate ∧ s ≠ u) :=
  ⟨by decide, next_of_isNext (by decide), by decide⟩

end Sys2Proof.Tests
end

/-! ## The configuration: what its check says, and that no step changes it

A band table is checked along the recursion of `bandsSorted`; the other clauses of 00_scope.md R8 are read off
`Config.wf`. That the configuration stays is a frame argument: a command writes the stations, the monitor and the output
alone. -/

namespace Sys2Proof

/-- A code of 8 bits that is not 0 is one of 1 to 255 (00_scope.md R8, of the codes of `MODE_TABLE`). -/
theorem byte_ne_zero_iff (b : Byte) : b ≠ 0 ↔ 1 ≤ b.toNat ∧ b.toNat ≤ 255 := by bv_omega

/-- A property of every two neighbours of a list is one of the first two and of every two neighbours of the tail. -/
theorem forall_neighbours_cons_cons {α : Type} (P : α → α → Prop) (x y : α) (l : List α) :
    (∀ (i : Nat) (a b : α), (x :: y :: l)[i]? = some a → (x :: y :: l)[i + 1]? = some b → P a b) ↔
      P x y ∧ ∀ (i : Nat) (a b : α), (y :: l)[i]? = some a → (y :: l)[i + 1]? = some b → P a b := by
  rw [← Nat.and_forall_add_one]
  simp

/-- `bandsSorted` is 42_band_mapper.md R99: bounds in order in every entry, and every two neighbours disjoint and
ascending. -/
theorem bandsSorted_iff (t : List BandRange) : bandsSorted t = true ↔
    (∀ r ∈ t, r.low ≤ r.high) ∧
      ∀ (i : Nat) (r r' : BandRange), t[i]? = some r → t[i + 1]? = some r' → r.high < r'.low := by
  induction t using bandsSorted.induct with
  | case1 => simp [bandsSorted]
  | case2 r => simp [bandsSorted]
  | case3 r r' rest ih =>
    rw [forall_neighbours_cons_cons (fun a b : BandRange => a.high < b.low), List.forall_mem_cons]
    simp only [bandsSorted, Bool.and_eq_true, decide_eq_true_eq, ih]
    tauto

theorem bandTableWf_iff (t : List BandRange) : bandTableWf t = true ↔
    (∀ r ∈ t, r.low ≤ r.high) ∧
      (∀ (i : Nat) (r r' : BandRange), t[i]? = some r → t[i + 1]? = some r' → r.high < r'.low) ∧
      1 ≤ t.length ∧ t.length ≤ 255 := by
  simp only [bandTableWf, Bool.and_eq_true, decide_eq_true_eq, bandsSorted_iff, and_assoc]

theorem bandCodeOk_iff (n : Nat) (b : Byte) : bandCodeOk n b = true ↔ 1 ≤ b.toNat ∧ b.toNat ≤ n := by
  simp only [bandCodeOk, Bool.and_eq_true, decide_eq_true_eq]

/-- The hold time's bound is one on its unsigned value. -/
theorem holdTime_le_iff (h : Time) : h ≤ 0x7FFFFFFF ↔ h.toNat ≤ 2 ^ 31 - 1 := BitVec.le_def

theorem one_le_holdTime_iff (h : Time) : 1 ≤ h ↔ 1 ≤ h.toNat := BitVec.le_def

/-- The check on a configuration, clause by clause (00_scope.md R8). -/
theorem Config.wf_iff (c : Config) : c.wf = true ↔
    (c.radioAddr ≠ ctrlAddr ∧ c.radioAddr ≠ endOfMsg ∧ c.radioAddr ≠ startOfMsg) ∧
    10 ≤ c.maxFrameLen ∧ 1 ≤ c.nLinks ∧
    ((∀ r ∈ c.bandTable, r.low ≤ r.high) ∧
      (∀ (i : Nat) (r r' : BandRange), c.bandTable[i]? = some r → c.bandTable[i + 1]? = some r' → r.high < r'.low) ∧
      1 ≤ c.bandTable.length ∧ c.bandTable.length ≤ 255) ∧
    (∀ e ∈ c.modeTable, 1 ≤ e.2.toNat ∧ e.2.toNat ≤ 255) ∧
    (∀ p ∈ c.conflictPairs, (1 ≤ p.1.toNat ∧ p.1.toNat ≤ c.bandTable.length) ∧
      (1 ≤ p.2.toNat ∧ p.2.toNat ≤ c.bandTable.length)) ∧
    (1 ≤ c.holdTime.toNat ∧ c.holdTime.toNat ≤ 2 ^ 31 - 1) := by
  simp only [Config.wf, Bool.and_eq_true, decide_eq_true_eq, bne_iff_ne, List.all_eq_true, bandTableWf_iff,
    bandCodeOk_iff, byte_ne_zero_iff, holdTime_le_iff, one_le_holdTime_iff, and_assoc]

end Sys2Proof

namespace Sys2Proof.Machine

section ConfigKept

variable {s t : State}

/-- A command writes the stations, the monitor and the output alone. -/
theorem exec_frame {i : Instr} (h : exec i s = .next t) :
    t = { s with st1 := t.st1, st2 := t.st2, mon := t.mon, out := t.out } := by
  obtain ⟨k, -, ⟨o, rfl, -⟩ | ⟨m, f, fv, -, rfl⟩ | ⟨v, s', ev, -, he, rfl⟩⟩ := exec_cases h
  · rfl
  · cases k <;> rfl
  · obtain ⟨mon, rfl, -⟩ := evaluate_cases he
    cases k <;> rfl

/-- Processing a frame, accepted or not, writes the stations, the monitor and the output alone. -/
theorem processFrame_frame {f : List Byte} (h : processFrame f s = .next t) :
    t = { s with st1 := t.st1, st2 := t.st2, mon := t.mon, out := t.out } := by
  obtain ⟨e, -, rfl⟩ | ⟨i, -, hi⟩ := processFrame_cases h
  · rfl
  · exact exec_frame hi

/-- Once its assembler is written, a FEED writes the stations, the monitor and the output alone. -/
theorem finishAssembly_frame {r : AsmResult} (h : finishAssembly r s = .next t) :
    t = { s with st1 := t.st1, st2 := t.st2, mon := t.mon, out := t.out } := by
  cases r with
  | quiet => cases h; rfl
  | badFraming => cases h; rfl
  | frame f => exact processFrame_frame h

/-- No host operation changes the configuration (00_scope.md R8). -/
theorem applyOp_cfg {op : HostOp} (h : applyOp op s = .next t) : t.cfg = s.cfg := by
  cases op with
  | feed l b now =>
    obtain ⟨-, a, a', r, -, -, hr⟩ := feedOp_cases h
    simpa using congrArg State.cfg (finishAssembly_frame hr)
  | frame f now => simpa using congrArg State.cfg (processFrame_frame h)
  | tick now =>
    obtain ⟨s', ev, he, rfl⟩ := tickOp_cases h
    obtain ⟨mon, rfl, -⟩ := evaluate_cases he
    rfl
  | reset => cases h; rfl

/-- Only a well-formed configuration gives a step (00_scope.md R8). -/
theorem cfg_wf_of_step (h : step s = .next t) : s.cfg.wf = true := (stepPending_cases h).1

/-- No step changes the configuration (00_scope.md R8). -/
theorem step_cfg (h : step s = .next t) : t.cfg = s.cfg := by
  obtain ⟨-, ⟨-, rfl⟩ | ⟨op, rest, -, -, -, hop⟩⟩ := stepPending_cases h
  · rfl
  · simpa using applyOp_cfg hop

end ConfigKept

/-- Settles O1: the check clause by clause; a step that answers had a well-formed configuration; and every operation
keeps it. -/
theorem configCheckSaysRule : Obligations.ConfigCheckSaysRule := by
  refine ⟨Config.wf_iff, fun s t hbad h => ?_, fun s t h => step_cfg h⟩
  have hwf := cfg_wf_of_step h
  rw [hbad] at hwf
  contradiction

end Sys2Proof.Machine

/-! ## RESET, the refusals before it, and the ports

One equation for the step of a pending operation, and from it the two that matter here: a RESET that is not refused ends
in `resetOp`, and before the first RESET nothing else is accepted. A sample is an equation per case of its two checks. -/

namespace Sys2Proof.Machine

section ResetAndPorts

variable {s t : State} {op : HostOp} {rest : List HostOp}

/-- Under a well-formed configuration the step is the next pending operation's (45_interface_ops.md R137). -/
theorem step_of_pending (hc : s.cfg.wf = true) (hp : s.pending = op :: rest) :
    step s = hostStep op (s.withPending rest) := by
  simp [step, stepPending, hc, hp]

/-- A RESET completes before the first RESET, and after it wherever no field is at the reserved code (log 6). -/
theorem step_of_reset (hc : s.cfg.wf = true) (hr : s.wasReset = true → s.hasReservedCode = false)
    (hp : s.pending = .reset :: rest) : step s = .next (resetOp (s.withPending rest)) := by
  have hnot : ¬ ((s.withPending rest).wasReset && (s.withPending rest).hasReservedCode) = true := fun h => by
    obtain ⟨hw, hres⟩ := Bool.and_eq_true_iff.1 h
    exact Bool.eq_false_iff.1 (hr hw) hres
  rw [step_of_pending hc hp, hostStep, if_neg (fun h => h.2 rfl), if_neg hnot, applyOp]

/-- A RESET that answers a next state answers `resetOp`'s. -/
theorem eq_resetOp_of_step (hp : s.pending = .reset :: rest) (h : step s = .next t) :
    t = resetOp (s.withPending rest) := by
  obtain ⟨-, -, -, happ⟩ := applyOp_of_step hp h
  cases happ
  rfl

/-- Before the first RESET a step of any other operation is refused (10_state.md R34). -/
theorem step_beforeReset (hc : s.cfg.wf = true) (hw : s.wasReset = false) (hop : op ≠ .reset)
    (hp : s.pending = op :: rest) : step s = .refused .beforeReset := by
  rw [step_of_pending hc hp, hostStep, if_pos ⟨hw, hop⟩]

@[simp] theorem resetOp_station (s : State) (k : StationId) : (resetOp s).station k = Station.reset := by
  cases k <;> rfl

/-- `resetOp` gives every field the value of 10_state.md R33's table. -/
theorem afterReset_resetOp (s : State) (rest : List HostOp) : afterReset s rest (resetOp (s.withPending rest)) := by
  have hasm : ∀ a ∈ (resetOp (s.withPending rest)).asms, a = Assembler.reset s.cfg := fun a ha =>
    List.eq_of_mem_replicate ha
  refine ⟨rfl, rfl, rfl, fun k => ?_, rfl, rfl, rfl, List.length_replicate, fun a ha => ?_, rfl⟩
  · rw [resetOp_station]
    exact ⟨rfl, rfl, rfl, rfl, rfl⟩
  · rw [hasm a ha]
    exact ⟨rfl, rfl⟩

/-- After a RESET a sample shows the port's value (45_interface_ops.md R136). -/
theorem samplePort_of_wasReset (p : Port) (hc : s.cfg.wf = true) (hw : s.wasReset = true) :
    samplePort p s = .ok (portValue s p) := by
  rw [samplePort, if_pos hc, if_pos hw]

/-- Before the first RESET a sample is refused (10_state.md R34). -/
theorem samplePort_beforeReset (p : Port) (hc : s.cfg.wf = true) (hw : s.wasReset = false) :
    samplePort p s = .error .beforeReset := by
  rw [samplePort, if_pos hc, if_neg (Bool.eq_false_iff.1 hw)]

theorem ofBool_eq_ite (b : Bool) : BitVec.ofBool b = if b then 1#1 else 0#1 := by cases b <;> rfl

theorem portValue_filterValid (s : State) (k : StationId) :
    portValue s (.filterValid k) = if (s.station k).filterValid then 1#1 else 0#1 :=
  ofBool_eq_ite (s.station k).filterValid

theorem portValue_alert (s : State) : portValue s .alert = if s.mon.mstate = .alerting then 1#1 else 0#1 :=
  (ofBool_eq_ite s.alert).trans (if_congr decide_eq_true_iff rfl rfl)

/-- The ports read the station records and `MON.mstate` alone (10_state.md R29). -/
theorem portValue_congr {u : State} (hst : ∀ k, s.station k = u.station k) (hm : s.mon.mstate = u.mon.mstate) (p : Port) :
    portValue s p = portValue u p := by
  cases p with
  | band k => exact congrArg Station.band (hst k)
  | mode k => exact congrArg Station.mode (hst k)
  | filter k => exact congrArg Station.filter (hst k)
  | filterValid k => exact congrArg (fun st => BitVec.ofBool st.filterValid) (hst k)
  | lastChange k => exact congrArg Station.lastChange (hst k)
  | mstate => exact congrArg MState.code hm
  | alert => exact congrArg (fun m => BitVec.ofBool (decide (m = .alerting))) hm

/-- Every port has the reset value 0 (10_state.md R29): a RESET leaves it what it shows in `State.reset`. -/
theorem portValue_resetOp (s : State) (p : Port) : portValue (resetOp s) p = 0 := by
  have hst : ∀ k, (resetOp s).station k = State.reset.station k := fun k => by cases k <;> rfl
  rw [portValue_congr hst rfl p]
  cases p with
  | band k | mode k | filter k | filterValid k | lastChange k => cases k <;> rfl
  | mstate | alert => rfl

end ResetAndPorts

/-- Settles O43: the RESET is not refused, and ends in `resetOp`. -/
theorem resetOperation : Obligations.ResetOperation := fun s rest hc hr hp =>
  ⟨resetOp (s.withPending rest), step_of_reset hc (fun _ => hr) hp, afterReset_resetOp s rest⟩

/-- Settles O46: the first check of the step function, and the second of a sample. -/
theorem refusedBeforeReset : Obligations.RefusedBeforeReset := fun _ hc hw =>
  ⟨fun _ _ hop hp => step_beforeReset hc hw hop hp, fun p => samplePort_beforeReset p hc hw⟩

/-- Settles O54: an accepted sample is the port's value; that value is 0 in `resetOp`'s state; and it is a function of
the station records and `MON.mstate`. -/
theorem portsShowState : Obligations.PortsShowState := by
  refine ⟨fun s hc hw => ?shows, fun s t rest hp h p => ?zero, fun s u hcfg hw h1 h2 hm p => ?blind⟩
  case shows =>
    have hok : ∀ p, samplePort p s = .ok (portValue s p) := fun p => samplePort_of_wasReset p hc hw
    exact ⟨fun k => ⟨hok _, hok _, hok _,
        (hok _).trans (congrArg Except.ok (portValue_filterValid s k)), hok _⟩,
      hok _, (hok _).trans (congrArg Except.ok (portValue_alert s))⟩
  case zero =>
    have hc : s.cfg.wf = true := cfg_wf_of_step h
    have hok : samplePort p (resetOp (s.withPending rest)) = .ok (portValue (resetOp (s.withPending rest)) p) :=
      samplePort_of_wasReset p hc rfl
    rw [eq_resetOp_of_step hp h, hok, portValue_resetOp]
  case blind =>
    have hst : ∀ k, s.station k = u.station k := fun k => by cases k; exacts [h1, h2]
    rw [samplePort, samplePort, hcfg, hw, portValue_congr hst hm]

end Sys2Proof.Machine

/-! ## The validator

A byte sequence of at least `MIN_FRAME_LEN` bytes is cut at the places of the frame layout (30_encoding.md R50), and the
validator is one equation per answer on the pieces. -/

namespace Sys2Proof

/-- At least six bytes by their places in the frame layout (30_encoding.md R50), whatever the bytes are. -/
def rawFrame (b0 b1 b2 b3 b4 : Byte) (data : List Byte) (e : Byte) : List Byte :=
  b0 :: b1 :: b2 :: b3 :: b4 :: (data ++ [e])

theorem exists_rawFrame {f : List Byte} (h : 6 ≤ f.length) :
    ∃ b0 b1 b2 b3 b4 data e, f = rawFrame b0 b1 b2 b3 b4 data e := by
  match f, h with
  | b0 :: b1 :: b2 :: b3 :: b4 :: b5 :: rest, _ =>
    exact ⟨b0, b1, b2, b3, b4, _, _,
      by rw [rawFrame, List.dropLast_append_getLast (List.cons_ne_nil b5 rest)]⟩
  | [], h | [_], h | [_, _], h | [_, _, _], h | [_, _, _, _], h | [_, _, _, _, _], h => simp at h

/-- An encoded command's frame has the layout's places filled by its fields. -/
theorem encode_eq_rawFrame (c : Config) (i : Instr) :
    encode c i = rawFrame startOfMsg startOfMsg (addrOf c i.dest) (addrOf c i.src) i.cmd i.data endOfMsg := rfl

section RawFrame

variable {c : Config} {b0 b1 b2 b3 b4 e : Byte} {data : List Byte}

@[simp] theorem rawFrame_length : (rawFrame b0 b1 b2 b3 b4 data e).length = data.length + 6 := by simp [rawFrame]
@[simp] theorem rawFrame_zero : (rawFrame b0 b1 b2 b3 b4 data e)[0]? = some b0 := rfl
@[simp] theorem rawFrame_one : (rawFrame b0 b1 b2 b3 b4 data e)[1]? = some b1 := rfl
@[simp] theorem rawFrame_two : (rawFrame b0 b1 b2 b3 b4 data e)[2]? = some b2 := rfl
@[simp] theorem rawFrame_three : (rawFrame b0 b1 b2 b3 b4 data e)[3]? = some b3 := rfl
@[simp] theorem rawFrame_four : (rawFrame b0 b1 b2 b3 b4 data e)[4]? = some b4 := rfl
@[simp] theorem rawFrame_last : (rawFrame b0 b1 b2 b3 b4 data e)[data.length + 5]? = some e := by simp [rawFrame]

theorem rawFrame_data {j : Nat} (h : j < data.length) : (rawFrame b0 b1 b2 b3 b4 data e)[5 + j]? = data[j]? := by
  rw [Nat.add_comm, rawFrame]
  exact List.getElem?_append_left h

/-- An address byte names no party exactly when it is neither address (40_frame_decoder.md R72). -/
theorem partyOf_eq_none_iff {b : Byte} : partyOf c b = none ↔ b ≠ ctrlAddr ∧ b ≠ c.radioAddr := by
  unfold partyOf
  split_ifs <;> simp_all

/-- Either address names a party (40_frame_decoder.md R72). -/
theorem exists_partyOf {b : Byte} (h : b = ctrlAddr ∨ b = c.radioAddr) : ∃ p, partyOf c b = some p :=
  Option.ne_none_iff_exists'.1 fun hn => by
    obtain ⟨hctrl, hradio⟩ := partyOf_eq_none_iff.1 hn
    exact h.elim hctrl hradio

theorem decode_tooShort {f : List Byte} (h : f.length < minFrameLen) : decode c f = .err .tooShort := by
  simp [decode, h]

theorem decode_tooLong {f : List Byte} (h : minFrameLen ≤ f.length) (hmax : c.maxFrameLen < f.length) :
    decode c f = .err .badFraming := by
  simp [decode, Nat.not_lt.2 h, hmax]

/-- A wrong marker, or a third start marker (40_frame_decoder.md R69 to R71). -/
theorem decode_badFraming (hmax : data.length + 6 ≤ c.maxFrameLen)
    (h : b0 ≠ startOfMsg ∨ b1 ≠ startOfMsg ∨ b2 = startOfMsg ∨ e ≠ endOfMsg) :
    decode c (rawFrame b0 b1 b2 b3 b4 data e) = .err .badFraming := by
  have hlong : ¬ c.maxFrameLen < data.length + 6 := Nat.not_lt.2 hmax
  obtain h0 | h1 | h2 | he := h
  · simp [decode, rawFrame, minFrameLen, hlong, h0]
  · simp [decode, rawFrame, minFrameLen, hlong, h1]
  · simp [decode, rawFrame, minFrameLen, hlong, h2]
  · simp [decode, rawFrame, minFrameLen, hlong, he]

/-- The markers at their places, and an address byte that names no party (40_frame_decoder.md R72). -/
theorem decode_badAddress (hmax : data.length + 6 ≤ c.maxFrameLen) (h2 : b2 ≠ startOfMsg)
    (h : partyOf c b2 = none ∨ partyOf c b3 = none) :
    decode c (rawFrame startOfMsg startOfMsg b2 b3 b4 data endOfMsg) = .err .badAddress := by
  have hlong : ¬ c.maxFrameLen < data.length + 6 := Nat.not_lt.2 hmax
  obtain hd | hs := h
  · simp [decode, rawFrame, minFrameLen, hlong, h2, hd]
  · simp [decode, rawFrame, minFrameLen, hlong, h2, hs]

/-- Every check passed (40_frame_decoder.md R74). -/
theorem decode_accepted {dest src : Party} (hmax : data.length + 6 ≤ c.maxFrameLen) (h2 : b2 ≠ startOfMsg)
    (hd : partyOf c b2 = some dest) (hs : partyOf c b3 = some src) :
    decode c (rawFrame startOfMsg startOfMsg b2 b3 b4 data endOfMsg) = .ok (commandOf b4 dest src data) := by
  have hlong : ¬ c.maxFrameLen < data.length + 6 := Nat.not_lt.2 hmax
  simp [decode, rawFrame, minFrameLen, hlong, h2, hd, hs]

end RawFrame

/-- Settles O4: a sequence too short or too long is told by its length; any other is cut at the layout's places. -/
theorem validatorFirstFailedCheckDecides : Obligations.ValidatorFirstFailedCheckDecides := by
  refine fun c f => ⟨decode_tooShort, decode_tooLong, fun hmin hmax h => ?framing, fun hmin hmax hm h => ?address,
    fun hmin hmax hm hdest hsrc => ?accepted⟩
  all_goals
    obtain ⟨b0, b1, b2, b3, b4, data, e, rfl⟩ := exists_rawFrame hmin
    simp only [rawFrame_length, rawFrame_zero, rawFrame_one, rawFrame_two, rawFrame_three, rawFrame_four,
      Nat.add_succ_sub_one, rawFrame_last, ne_eq, Option.some.injEq, Nat.add_sub_cancel] at *
  case framing => exact decode_badFraming hmax h
  case address =>
    obtain ⟨rfl, rfl, h2, rfl⟩ := hm
    exact decode_badAddress hmax h2 (h.imp partyOf_eq_none_iff.2 partyOf_eq_none_iff.2)
  case accepted =>
    obtain ⟨rfl, rfl, h2, rfl⟩ := hm
    obtain ⟨dest, hd⟩ := exists_partyOf hdest
    obtain ⟨src, hs⟩ := exists_partyOf hsrc
    refine ⟨_, decode_accepted hmax h2 hd hs, ?_⟩
    simp only [commandOf_dest, commandOf_src, commandOf_cmd, commandOf_data, addrOf_of_partyOf hd, addrOf_of_partyOf hs,
      true_and]
    exact fun j hj => (rawFrame_data hj).symm

end Sys2Proof

/-! ## The assembler

What each byte makes of an assembler, one equation per state of the assembler and kind of byte; and the step of a FEED
that is next, one equation per thing the assembler can report. -/

namespace Sys2Proof.Machine

section AssembleByte

variable {maxLen : Nat} {b : Byte} {a : Assembler}

theorem huntByte_start : huntByte startOfMsg a = ⟨.sync1, 1, a.buf.set 0 startOfMsg⟩ := if_pos rfl

theorem huntByte_of_ne (hb : b ≠ startOfMsg) : huntByte b a = a := if_neg hb

theorem assembleByte_hunt (ha : a.astate = .hunt) : assembleByte maxLen b a = some (huntByte b a, .quiet) := by
  simp [assembleByte, ha]

theorem assembleByte_hunt_start (ha : a.astate = .hunt) :
    assembleByte maxLen startOfMsg a = some (⟨.sync1, 1, a.buf.set 0 startOfMsg⟩, .quiet) := by
  rw [assembleByte_hunt ha, huntByte_start]

theorem assembleByte_hunt_of_ne (ha : a.astate = .hunt) (hb : b ≠ startOfMsg) :
    assembleByte maxLen b a = some (a, .quiet) := by
  rw [assembleByte_hunt ha, huntByte_of_ne hb]

theorem assembleByte_sync1_start (ha : a.astate = .sync1) :
    assembleByte maxLen startOfMsg a = some (⟨.body, 2, a.buf.set 1 startOfMsg⟩, .quiet) := by
  simp [assembleByte, ha]

theorem assembleByte_sync1_of_ne (ha : a.astate = .sync1) (hb : b ≠ startOfMsg) :
    assembleByte maxLen b a = some (⟨.hunt, 0, a.buf⟩, .quiet) := by
  simp [assembleByte, ha, hb]

/-- In BODY with a full buffer the byte is handled in HUNT (40_frame_decoder.md R83). -/
theorem assembleByte_full (ha : a.astate = .body) (hc : a.cnt = maxLen) :
    assembleByte maxLen b a = some (huntByte b ⟨.hunt, 0, a.buf⟩, .badFraming) := by
  simp [assembleByte, ha, hc]

theorem assembleByte_full_start (ha : a.astate = .body) (hc : a.cnt = maxLen) :
    assembleByte maxLen startOfMsg a = some (⟨.sync1, 1, a.buf.set 0 startOfMsg⟩, .badFraming) := by
  rw [assembleByte_full ha hc, huntByte_start]

theorem assembleByte_full_of_ne (ha : a.astate = .body) (hc : a.cnt = maxLen) (hb : b ≠ startOfMsg) :
    assembleByte maxLen b a = some (⟨.hunt, 0, a.buf⟩, .badFraming) := by
  rw [assembleByte_full ha hc, huntByte_of_ne hb]

theorem assembleByte_body_start (ha : a.astate = .body) (hc : a.cnt < maxLen) :
    assembleByte maxLen startOfMsg a = some (⟨.sync1, 1, a.buf.set 0 startOfMsg⟩, .badFraming) := by
  simp [assembleByte, ha, hc.ne]

/-- The cell at `cnt` is one of the buffer's, so the frame is the valid bytes and the marker (40_frame_decoder.md
R82). -/
theorem assembleByte_body_end (ha : a.astate = .body) (hc : a.cnt < maxLen) (hbuf : a.buf.length = maxLen) :
    assembleByte maxLen endOfMsg a =
      some (⟨.hunt, 0, a.buf.set a.cnt endOfMsg⟩, .frame (a.buf.take a.cnt ++ [endOfMsg])) := by
  have hne : endOfMsg ≠ startOfMsg := by decide
  have hframe : (a.buf.set a.cnt endOfMsg).take (a.cnt + 1) = a.buf.take a.cnt ++ [endOfMsg] := by
    rw [List.take_add_one, List.getElem?_set_self (hbuf.symm ▸ hc), List.take_set_of_le le_rfl, Option.toList_some]
  simp [assembleByte, ha, hc.ne, hne, hframe]

theorem assembleByte_body_data (ha : a.astate = .body) (hc : a.cnt < maxLen) (hs : b ≠ startOfMsg) (he : b ≠ endOfMsg) :
    assembleByte maxLen b a = some (⟨.body, a.cnt + 1, a.buf.set a.cnt b⟩, .quiet) := by
  simp [assembleByte, ha, hc.ne, hs, he]

end AssembleByte

section Feed

variable {s : State} {l : Nat} {b : Byte} {t : Time} {rest : List HostOp} {a a' : Assembler}

/-- Writing the record that is there changes nothing. -/
theorem withAsm_self (h : s.asms[l]? = some a) : s.withAsm l a = s := by
  obtain ⟨hl, rfl⟩ := List.getElem?_eq_some_iff.1 h
  rw [State.withAsm, List.set_getElem_self hl]

/-- The step of a FEED writes the assembler's record, then does what the assembler reports. -/
theorem step_of_assembled {r : AsmResult} (h : feedReady s l b t rest a)
    (ha : assembleByte s.cfg.maxFrameLen b a = some (a', r)) :
    step s = finishAssembly r ((opStart s t rest).withAsm l a') := by
  rw [step_of_feedReady h, ha]

theorem step_of_quiet (h : feedReady s l b t rest a) (ha : assembleByte s.cfg.maxFrameLen b a = some (a', .quiet)) :
    step s = .next (((opStart s t rest).withAsm l a').withOut Output.zero) :=
  step_of_assembled h ha

theorem step_of_badFraming (h : feedReady s l b t rest a)
    (ha : assembleByte s.cfg.maxFrameLen b a = some (a', .badFraming)) :
    step s = .next (((opStart s t rest).withAsm l a').withOut { Output.zero with status := .badFraming }) :=
  step_of_assembled h ha

end Feed

/-- Settles O23: the marker has a free cell, so the frame the assembler reports is the valid bytes and the marker. -/
theorem feedCompletesFrame : Obligations.FeedCompletesFrame := fun _ _ _ _ _ h ha hc hbuf =>
  step_of_assembled h (assembleByte_body_end ha hc hbuf)

/-- Settles O21: the assembler reports nothing before BODY, and a byte discarded in HUNT leaves its record. -/
theorem feedBeforeBody : Obligations.FeedBeforeBody := by
  refine fun s l b t rest a h =>
    ⟨fun ha hb => ?huntStart, fun ha hb => ?huntOther, fun ha hb => ?syncStart, fun ha hb => ?syncOther⟩
  case huntStart =>
    subst hb
    exact step_of_quiet h (assembleByte_hunt_start ha)
  case huntOther =>
    have ⟨_, _, hasm⟩ := h
    have hself : (opStart s t rest).withAsm l a = opStart s t rest := withAsm_self hasm
    rw [step_of_quiet h (assembleByte_hunt_of_ne ha hb), hself]
  case syncStart =>
    subst hb
    exact step_of_quiet h (assembleByte_sync1_start ha)
  case syncOther => exact step_of_quiet h (assembleByte_sync1_of_ne ha hb)

/-- Settles O22: a data byte and a start marker in BODY with a free cell. -/
theorem feedInBody : Obligations.FeedInBody := by
  refine fun s l b t rest a h ha hc => ⟨fun hs he => ?data, fun hb => ?start⟩
  case data => exact step_of_quiet h (assembleByte_body_data ha hc hs he)
  case start =>
    subst hb
    exact step_of_badFraming h (assembleByte_body_start ha hc)

/-- Settles O24: the overflow reports BAD_FRAMING, and the byte is then one in HUNT. -/
theorem feedOverflows : Obligations.FeedOverflows := by
  refine fun s l b t rest a h ha hc => ⟨fun hb => ?start, fun hb => ?other⟩
  case start =>
    subst hb
    exact step_of_badFraming h (assembleByte_full_start ha hc)
  case other => exact step_of_badFraming h (assembleByte_full_of_ne ha hc hb)

end Sys2Proof.Machine

/-! ## The value decoders

The frequency decoder is two equations, one for valid bytes and one for a byte with a nibble above 9. That its 32 bits
hold the sum is a bound on `bcdValue` by the number of bytes, proved along the bytes for any number of them. The mode
decoder is a look-up in a list; where the list is a map, its first match for a byte is its only one. -/

namespace Sys2Proof.Machine

section FrequencyDecoder

variable {b : Byte} {d : List Byte}

/-- A byte is valid when neither nibble is above 9 (41_value_codec.md R87). -/
theorem bcdValid_iff : bcdValid b = true ↔ b.toNat / 16 ≤ 9 ∧ b.toNat % 16 ≤ 9 := by
  rw [bcdValid, Bool.and_eq_true, decide_eq_true_iff, decide_eq_true_iff, hiNibble, loNibble]

theorem pairValue_eq (b : Byte) : pairValue b = 10 * (b.toNat / 16) + b.toNat % 16 := rfl

/-- The digit pair of a valid byte is in 0 to 99 (41_value_codec.md R88). -/
theorem pairValue_le (h : bcdValid b = true) : pairValue b ≤ 99 := by
  obtain ⟨hhi, hlo⟩ := bcdValid_iff.1 h
  rw [pairValue_eq]
  omega

/-- `n` valid bytes hold a number of `n` digit pairs. -/
theorem bcdValue_lt (h : ∀ b ∈ d, bcdValid b = true) : bcdValue d < 100 ^ d.length := by
  induction d with
  | nil => simp [bcdValue]
  | cons b d ih =>
    obtain ⟨hb, hd⟩ := List.forall_mem_cons.1 h
    have hpair : pairValue b ≤ 99 := pairValue_le hb
    have hrest : bcdValue d < 100 ^ d.length := ih hd
    rw [bcdValue, List.length_cons, pow_succ]
    omega

/-- The range of 41_value_codec.md R90. -/
theorem bcdValue_le (hlen : d.length = 4) (h : ∀ b ∈ d, bcdValid b = true) : bcdValue d ≤ 99999999 := by
  have hlt : bcdValue d < 100 ^ 4 := hlen ▸ bcdValue_lt h
  omega

/-- The sum of 41_value_codec.md R89 with its weights written out. -/
theorem bcdValue_four (d0 d1 d2 d3 : Byte) : bcdValue [d0, d1, d2, d3] =
    pairValue d0 + 100 * pairValue d1 + 100 ^ 2 * pairValue d2 + 100 ^ 3 * pairValue d3 := by
  simp only [bcdValue]
  ring

theorem decodeFrequency_of_valid (h : ∀ b ∈ d, bcdValid b = true) :
    decodeFrequency d = (false, BitVec.ofNat 32 (bcdValue d)) :=
  if_pos (List.all_eq_true.2 h)

/-- One byte that is not valid makes the whole frequency bad (41_value_codec.md R91). -/
theorem decodeFrequency_of_not_valid (h : ¬∀ b ∈ d, bcdValid b = true) : decodeFrequency d = (true, 0) :=
  if_neg (mt List.all_eq_true.1 h)

/-- The 32-bit value holds the sum of four valid bytes exactly (41_value_codec.md R90). -/
theorem toNat_decodeFrequency (hlen : d.length = 4) (h : ∀ b ∈ d, bcdValid b = true) :
    (decodeFrequency d).2.toNat = bcdValue d := by
  have hle : bcdValue d ≤ 99999999 := bcdValue_le hlen h
  rw [decodeFrequency_of_valid h, BitVec.toNat_ofNat, Nat.mod_eq_of_lt (by omega)]

end FrequencyDecoder

section ModeDecoder

/-- In a list of pairs that lists no key twice, a key's look-up finds the key's pair wherever it stands. -/
theorem lookup_eq_some_of_mem {α β : Type} [BEq α] [LawfulBEq α] {l : List (α × β)} {a : α} {x : β}
    (hl : (l.map Prod.fst).Nodup) (h : (a, x) ∈ l) : l.lookup a = some x := by
  obtain ⟨before, after, rfl⟩ := List.append_of_mem h
  have hfirst : ∀ p ∈ before, p.1 ≠ a := by
    rw [List.map_append, List.map_cons, List.nodup_append] at hl
    obtain ⟨-, -, hdisj⟩ := hl
    exact fun p hp => hdisj p.1 (List.mem_map_of_mem hp) a List.mem_cons_self
  exact List.lookup_eq_some_iff.2 ⟨before, after, rfl, fun p hp => bne_iff_ne.2 (hfirst p hp).symm⟩

variable {c : Config} {m code : Byte}

/-- A byte a map lists has the map's code (41_value_codec.md R94). -/
theorem decodeMode_of_mem (hmap : (c.modeTable.map Prod.fst).Nodup) (h : (m, code) ∈ c.modeTable) :
    decodeMode c m = code := by
  rw [decodeMode, lookup_eq_some_of_mem hmap h, Option.getD_some]

/-- A byte the table does not list is Unknown, not an error (41_value_codec.md R95). -/
theorem decodeMode_of_not_mem (h : ∀ code, (m, code) ∉ c.modeTable) : decodeMode c m = 0 := by
  have hnone : c.modeTable.lookup m = none := by
    refine List.lookup_eq_none_iff.2 fun p hp => bne_iff_ne.2 fun hm => ?_
    exact h p.2 (hm ▸ hp)
  rw [decodeMode, hnone, Option.getD_none]

end ModeDecoder

/-- Settles O7: the hypothesis of either clause is that all four bytes are valid or not, and the sum of the second is
`bcdValue` of the four. -/
theorem frequencyDecodeValue : Obligations.FrequencyDecodeValue := by
  intro d0 d1 d2 d3 p ok
  have hvalid : (∀ b ∈ [d0, d1, d2, d3], bcdValid b = true) ↔ ok d0 ∧ ok d1 ∧ ok d2 ∧ ok d3 := by
    simp only [List.forall_mem_cons, bcdValid_iff, List.not_mem_nil, false_imp_iff, implies_true, and_true, ok]
  have hsum : bcdValue [d0, d1, d2, d3] = p d0 + 100 * p d1 + 100 ^ 2 * p d2 + 100 ^ 3 * p d3 :=
    bcdValue_four d0 d1 d2 d3
  rw [← hvalid, ← hsum]
  exact ⟨decodeFrequency_of_not_valid, fun h =>
    ⟨congrArg Prod.fst (decodeFrequency_of_valid h), toNat_decodeFrequency rfl h, bcdValue_le rfl h⟩⟩

/-- Settles O9: the look-up finds the byte's only pair, and finds none where the table lists none. -/
theorem modeLookup : Obligations.ModeLookup := fun _ _ hmap =>
  ⟨fun _ h => decodeMode_of_mem hmap h, decodeMode_of_not_mem⟩

end Sys2Proof.Machine

/-! ## The band lookup

`bandScan` takes the first entry that holds the frequency. In a sorted table every entry lies below all the later ones,
neighbour or not, so no entry before the one that holds the frequency stops the scan. -/

namespace Sys2Proof.Machine

section BandLookup

variable {t rest : List BandRange} {r : BandRange} {c : Config} {v : Word} {i n : Nat}

/-- R99 orders neighbours; as no entry is empty, the order carries over to any two entries. -/
theorem pairwise_of_bandsSorted (h : bandsSorted t = true) : t.Pairwise (fun r r' => r.high < r'.low) := by
  induction t using bandsSorted.induct with
  | case1 => exact List.Pairwise.nil
  | case2 r => exact List.pairwise_singleton _ r
  | case3 r r' rest ih =>
    simp only [bandsSorted, Bool.and_eq_true, decide_eq_true_eq] at h
    obtain ⟨⟨-, hnext⟩, htail⟩ := h
    have hpair : (r' :: rest).Pairwise (fun r r' => r.high < r'.low) := ih htail
    obtain ⟨hbounds, -⟩ := (bandsSorted_iff _).1 htail
    have hne : r'.low ≤ r'.high := hbounds r' List.mem_cons_self
    refine List.pairwise_cons.2 ⟨List.forall_mem_cons.2 ⟨hnext, fun x hx => ?_⟩, hpair⟩
    have hlater : r'.high < x.low := List.rel_of_pairwise_cons hpair hx
    bv_omega

theorem bandScan_cons_of_holds (h : r.low ≤ v ∧ v ≤ r.high) : bandScan v n (r :: rest) = n := if_pos h

theorem bandScan_cons_of_not_holds (h : ¬(r.low ≤ v ∧ v ≤ r.high)) :
    bandScan v n (r :: rest) = bandScan v (n + 1) rest := if_neg h

/-- In a sorted table the scan gives the position, counted from `n`, of any entry that holds the frequency. -/
theorem bandScan_of_getElem? (ht : t.Pairwise (fun r r' => r.high < r'.low)) (hi : t[i]? = some r)
    (hr : r.low ≤ v ∧ v ≤ r.high) : bandScan v n t = n + i := by
  induction t generalizing n i with
  | nil => simp at hi
  | cons r₀ rest ih =>
    cases i with
    | zero =>
      obtain rfl : r₀ = r := by simpa using hi
      exact bandScan_cons_of_holds hr
    | succ i =>
      rw [List.getElem?_cons_succ] at hi
      have hbelow : r₀.high < r.low := List.rel_of_pairwise_cons ht (List.mem_of_getElem? hi)
      have hmiss : ¬(r₀.low ≤ v ∧ v ≤ r₀.high) := by bv_omega
      rw [bandScan_cons_of_not_holds hmiss, ih ht.of_cons hi]
      omega

theorem bandScan_eq_zero (h : ∀ r ∈ t, ¬(r.low ≤ v ∧ v ≤ r.high)) : bandScan v n t = 0 := by
  induction t generalizing n with
  | nil => rfl
  | cons r rest ih =>
    obtain ⟨hr, hrest⟩ := List.forall_mem_cons.1 h
    rw [bandScan_cons_of_not_holds hr, ih hrest]

/-- The position is a byte, since the table has at most 255 entries (42_band_mapper.md R99). -/
theorem toNat_bandFor_of_getElem? (hwf : bandTableWf c.bandTable = true) (hi : c.bandTable[i]? = some r)
    (hr : r.low ≤ v ∧ v ≤ r.high) : (bandFor c v).toNat = i + 1 := by
  obtain ⟨hbounds, hnext, -, hlen⟩ := (bandTableWf_iff _).1 hwf
  have hsorted : bandsSorted c.bandTable = true := (bandsSorted_iff _).2 ⟨hbounds, hnext⟩
  obtain ⟨hlt, -⟩ := List.getElem?_eq_some_iff.1 hi
  rw [bandFor, bandScan_of_getElem? (pairwise_of_bandsSorted hsorted) hi hr, BitVec.toNat_ofNat,
    Nat.mod_eq_of_lt (by omega)]
  omega

/-- A frequency in no entry is Unclassified (42_band_mapper.md R100). -/
theorem bandFor_eq_zero (h : ∀ r ∈ c.bandTable, ¬(r.low ≤ v ∧ v ≤ r.high)) : bandFor c v = 0 :=
  congrArg (BitVec.ofNat 8) (bandScan_eq_zero h)

end BandLookup

/-- Settles O10: the scan stops at the one entry that holds the frequency, or runs off the end of the table. -/
theorem bandLookup : Obligations.BandLookup := fun _ _ hwf =>
  ⟨fun _ _ hi hlow hhigh => toNat_bandFor_of_getElem? hwf hi ⟨hlow, hhigh⟩, bandFor_eq_zero⟩

end Sys2Proof.Machine

/-! ## The station processor

The commands that name a frequency are one function and those that name a mode another, so each pair of commands is one
equation, and each of the two functions is an equation per form of its data area. What a frame leaves unchanged is read
off `exec_cases`: a command reports only, stores a mode, or stores a band and evaluates; and its status says which. -/

namespace Sys2Proof.Machine

section Commands

variable {i : Instr} {dest src : Party} {data : List Byte} {k : StationId} {s : State}

/-- SEND_FREQ and QUERY_FREQ have one meaning (43_station_processor.md R109, R110). -/
theorem exec_eq_applyFreq (hi : i = .sendFreq dest src data ∨ i = .queryFreq dest src data) :
    exec i s = applyFreq (stationOf s.cfg src) data s := by
  obtain rfl | rfl := hi <;> rfl

/-- SEND_MODE and QUERY_MODE have one meaning (43_station_processor.md R112, R113). -/
theorem exec_eq_applyMode (hi : i = .sendMode dest src data ∨ i = .queryMode dest src data) :
    exec i s = applyMode (stationOf s.cfg src) data s := by
  obtain rfl | rfl := hi <;> rfl

theorem applyFreq_of_empty (h : data.length = 0) : applyFreq k data s = .next (s.withOut (ignoredOut k)) := if_pos h

theorem applyFreq_of_length_ne (h0 : data.length ≠ 0) (h4 : data.length ≠ freqDataSize) :
    applyFreq k data s = .next (s.withOut (errorOut .badEncoding (stationCode k))) := by
  rw [applyFreq, if_neg h0, if_pos h4, raiseFrameError_eq]

/-- A data area of the right length is decoded (43_station_processor.md R111). -/
theorem applyFreq_of_freqDataSize (h : data.length = freqDataSize) : applyFreq k data s =
    if (decodeFrequency data).1 then .next (s.withOut (errorOut .badEncoding (stationCode k)))
    else updateBand k (decodeFrequency data).2 s := by
  have h0 : data.length ≠ 0 := by rw [h]; decide
  rw [applyFreq, if_neg h0, if_neg (not_not_intro h), raiseFrameError_eq]

variable {v : Word}

theorem updateBand_of_same (h : bandFor s.cfg v = (s.station k).band) :
    updateBand k v s = .next (s.withOut (freqOut k v (bandFor s.cfg v) .noEvent)) := if_pos h

/-- A changed band is stored and the monitor evaluated on it, which answers unless its code is the reserved one. -/
theorem exists_evaluate_of_updateBand (hm : s.mon.mstate ≠ .reserved) (h : bandFor s.cfg v ≠ (s.station k).band) :
    ∃ s' ev, evaluate true (s.withStation k { s.station k with band := bandFor s.cfg v, lastChange := s.now }) =
        some (s', ev) ∧ updateBand k v s = .next (s'.withOut (freqOut k v (bandFor s.cfg v) ev)) := by
  have hm' : (s.withStation k { s.station k with band := bandFor s.cfg v, lastChange := s.now }).mon.mstate ≠
      .reserved := by rwa [withStation_mon]
  obtain ⟨⟨s', ev⟩, he⟩ := Option.isSome_iff_exists.1 (evaluate_isSome true hm')
  refine ⟨s', ev, he, ?_⟩
  simp only [updateBand, if_neg h, he]

theorem applyMode_of_three_le (h : 3 ≤ data.length) :
    applyMode k data s = .next (s.withOut (errorOut .badEncoding (stationCode k))) := by
  match data, h with
  | _ :: _ :: _ :: _, _ => rfl

end Commands

section FrameEffects

variable {s t : State} {i : Instr} {f : List Byte} {k : StationId}

/-- A command writes no other station's record than its source's (43_station_processor.md R117). -/
theorem exec_station_of_ne (h : exec i s = .next t) (hk : k ≠ stationOf s.cfg i.src) : t.station k = s.station k := by
  obtain ⟨_, rfl, ⟨o, rfl, -⟩ | ⟨m, fb, fv, -, rfl⟩ | ⟨v, s', ev, -, he, rfl⟩⟩ := exec_cases h
  · exact withOut_station s o k
  · rw [withOut_station, withStation_station_of_ne _ _ _ hk]
  · obtain ⟨mon, rfl, -⟩ := evaluate_cases he
    rw [withOut_station, withMon_station, withStation_station_of_ne _ _ _ hk]

/-- A command writes the monitor only by evaluating it on the bands it leaves, after its own station's band changed
(43_station_processor.md R117). -/
theorem exec_mon (h : exec i s = .next t) :
    t.mon = s.mon ∨
      ((t.station (stationOf s.cfg i.src)).band ≠ (s.station (stationOf s.cfg i.src)).band ∧
        ∃ ev, monitorNext s.cfg (conflicts s.cfg t.st1.band t.st2.band) true s.now s.mon = some (t.mon, ev)) := by
  obtain ⟨k, rfl, ⟨o, rfl, -⟩ | ⟨m, fb, fv, -, rfl⟩ | ⟨v, s', ev, hband, he, rfl⟩⟩ := exec_cases h
  · exact .inl rfl
  · exact .inl (withStation_mon s _ _)
  · obtain ⟨mon, rfl, hmon⟩ := evaluate_cases he
    rw [withStation_cfg, withStation_now, withStation_mon] at hmon
    refine .inr ⟨?_, ev, hmon⟩
    rwa [withOut_station, withMon_station, withStation_station_self]

/-- A command that reports neither FREQ nor MODE writes its output alone. -/
theorem exec_eq_withOut (h : exec i s = .next t) (hfreq : t.out.status ≠ .freq) (hmode : t.out.status ≠ .mode) :
    t = s.withOut t.out := by
  obtain ⟨k, -, ⟨o, rfl, -⟩ | ⟨m, fb, fv, -, rfl⟩ | ⟨v, s', ev, -, -, rfl⟩⟩ := exec_cases h
  · rfl
  · exact absurd rfl hmode
  · exact absurd rfl hfreq

/-- A frame, accepted or not, that ends in neither FREQ nor MODE writes its output alone. -/
theorem processFrame_eq_withOut (h : processFrame f s = .next t) (hfreq : t.out.status ≠ .freq)
    (hmode : t.out.status ≠ .mode) : t = s.withOut t.out := by
  obtain ⟨e, -, rfl⟩ | ⟨i, -, hi⟩ := processFrame_cases h
  · rfl
  · exact exec_eq_withOut hi hfreq hmode

/-- Once its assembler is written, a FEED that reports neither FREQ nor MODE writes its output alone. -/
theorem finishAssembly_eq_withOut {r : AsmResult} (h : finishAssembly r s = .next t) (hfreq : t.out.status ≠ .freq)
    (hmode : t.out.status ≠ .mode) : t = s.withOut t.out := by
  cases r with
  | quiet => cases h; rfl
  | badFraming => cases h; rfl
  | frame f => exact processFrame_eq_withOut h hfreq hmode

/-- An operation that reports a frame, as an error or as IGNORED, keeps both station records and the monitor
(43_station_processor.md R116); a TICK reports none. -/
theorem applyOp_keeps_records {op : HostOp} (h : applyOp op s = .next t) (hop : op ≠ .reset)
    (hnone : t.out.status ≠ .noFrame) (hfreq : t.out.status ≠ .freq) (hmode : t.out.status ≠ .mode) :
    t.st1 = s.st1 ∧ t.st2 = s.st2 ∧ t.mon = s.mon := by
  cases op with
  | feed l b now =>
    obtain ⟨-, a, a', r, -, -, hr⟩ := feedOp_cases h
    rw [finishAssembly_eq_withOut hr hfreq hmode]
    exact ⟨rfl, rfl, rfl⟩
  | frame f now =>
    rw [processFrame_eq_withOut h hfreq hmode]
    exact ⟨rfl, rfl, rfl⟩
  | tick now =>
    obtain ⟨s', ev, -, rfl⟩ := tickOp_cases h
    exact absurd rfl hnone
  | reset => exact absurd rfl hop

end FrameEffects

/-- Settles O11: one case for each of the five outcomes of `applyFreq`; the reserved code is excluded for the last. -/
theorem freqCommandResult : Obligations.FreqCommandResult := by
  intro i dest src data s hi hm k v nb
  rw [exec_eq_applyFreq hi]
  refine ⟨applyFreq_of_empty, applyFreq_of_length_ne, fun h4 hbad => ?bad, fun h4 hok hsame => ?same,
    fun h4 hok hnew => ?changed⟩
  case bad => rw [applyFreq_of_freqDataSize h4, if_pos hbad]; rfl
  all_goals rw [applyFreq_of_freqDataSize h4, if_neg (Bool.eq_false_iff.1 hok)]
  case same => exact updateBand_of_same hsame
  case changed => exact exists_evaluate_of_updateBand hm hnew

/-- Settles O18: none of the five statuses is that of an operation without a frame, or of a stored frequency or mode. -/
theorem errorWritesNoRecord : Obligations.ErrorWritesNoRecord := by
  intro s t op rest hp hop h hstatus
  obtain ⟨-, -, -, happ⟩ := applyOp_of_step hp h
  have hnot : t.out.status ≠ .noFrame ∧ t.out.status ≠ .freq ∧ t.out.status ≠ .mode := by
    obtain hs | hs | hs | hs | hs := hstatus <;> rw [hs] <;> decide
  obtain ⟨hnone, hfreq, hmode⟩ := hnot
  simpa using applyOp_keeps_records happ hop hnone hfreq hmode

/-- Settles O19: the frame is its command, which keeps the other station and the assemblers and only evaluates the
monitor. -/
theorem frameWritesOwnStationOnly : Obligations.FrameWritesOwnStationOnly := by
  intro s t f i hi h k
  have hexec : exec i s = .next t := by
    rw [← h, processFrame, hi]
  exact ⟨fun j hj => exec_station_of_ne hexec hj, by rw [exec_frame hexec], exec_mon hexec⟩

/-- Settles O12: `applyMode` on a data area of none, one, two, and three or more bytes. -/
theorem modeCommandResult : Obligations.ModeCommandResult := by
  intro i dest src data s hi k
  rw [exec_eq_applyMode hi]
  refine ⟨fun h => ?ignored, fun m h => ?modeOnly, fun m f h => ?modeAndFilter, applyMode_of_three_le⟩
  case ignored => rw [List.eq_nil_of_length_eq_zero h]; rfl
  case modeOnly => subst h; rfl
  case modeAndFilter => subst h; rfl

/-- Settles O13: OTHER uses no operand but its source. -/
theorem otherCommandIgnored : Obligations.OtherCommandIgnored := fun _ _ _ _ _ => rfl

end Sys2Proof.Machine

/-! ## The conflict monitor

The conflict predicate and the hold test say what their numbers do; the monitor's transition is one equation per case of
44_conflict_monitor.md R122 to R124. The two events mark the edges of the alert in one transition, and an operation
either makes one transition and reports its event, or leaves the monitor and reports none. -/

namespace Sys2Proof.Machine

section MonitorFlags

variable {c : Config} {a b : Byte} {now since : Time}

theorem inConflictPairs_iff : inConflictPairs c a b = true ↔ (a, b) ∈ c.conflictPairs ∨ (b, a) ∈ c.conflictPairs := by
  rw [inConflictPairs, Bool.or_eq_true, List.contains_iff_mem, List.contains_iff_mem]

/-- The listed pairs are unordered (44_conflict_monitor.md R120). -/
theorem inConflictPairs_comm (c : Config) (a b : Byte) : inConflictPairs c a b = inConflictPairs c b a :=
  Bool.or_comm _ _

theorem conflicts_iff : conflicts c a b = true ↔
    a ≠ 0 ∧ b ≠ 0 ∧ (a = b ∨ (a, b) ∈ c.conflictPairs ∨ (b, a) ∈ c.conflictPairs) := by
  rw [conflicts, Bool.and_eq_true, Bool.and_eq_true, bne_iff_ne, bne_iff_ne, Bool.or_eq_true, beq_iff_eq,
    inConflictPairs_iff, and_assoc]

theorem conflicts_comm (c : Config) (a b : Byte) : conflicts c a b = conflicts c b a := by
  rw [conflicts, conflicts, Bool.and_comm (a != 0), Bool.beq_comm, inConflictPairs_comm]

/-- The difference of words is that of their numbers, over a wrap too (44_conflict_monitor.md R121). -/
theorem toNat_elapsed (now since : Time) :
    ((elapsed now since).toNat : Int) = ((now.toNat : Int) - since.toNat) % 2 ^ 32 := by
  rw [elapsed, BitVec.toNat_sub]
  omega

theorem holdExpired_iff : holdExpired c now since = true ↔ (elapsed now since).toNat ≥ c.holdTime.toNat :=
  decide_eq_true_iff.trans BitVec.le_def

theorem holdExpired_eq_false_iff :
    holdExpired c now since = false ↔ (elapsed now since).toNat < c.holdTime.toNat := by
  rw [← Bool.not_eq_true, holdExpired_iff, not_le]

end MonitorFlags

section MonitorTransitions

variable {c : Config} {ch : Bool} {now : Time} {m : Monitor}

theorem monitorNext_clear_conflict (h : m.mstate = .clear) :
    monitorNext c true ch now m = some (⟨.holding, now⟩, .noEvent) := by
  simp only [monitorNext, h]

theorem monitorNext_clear_noConflict (h : m.mstate = .clear) : monitorNext c false ch now m = some (m, .noEvent) := by
  simp only [monitorNext, h]

theorem monitorNext_holding_noConflict (h : m.mstate = .holding) :
    monitorNext c false ch now m = some (⟨.clear, m.since⟩, .noEvent) := by
  simp only [monitorNext, h]

/-- A band change that keeps the pair conflicting restarts the hold (44_conflict_monitor.md R123). -/
theorem monitorNext_holding_changed (h : m.mstate = .holding) :
    monitorNext c true true now m = some (⟨.holding, now⟩, .noEvent) := by
  simp [monitorNext, h]

theorem monitorNext_holding_expired (h : m.mstate = .holding) (hx : holdExpired c now m.since = true) :
    monitorNext c true false now m = some (⟨.alerting, m.since⟩, .raise) := by
  simp [monitorNext, h, hx]

theorem monitorNext_holding_running (h : m.mstate = .holding) (hx : holdExpired c now m.since = false) :
    monitorNext c true false now m = some (m, .noEvent) := by
  simp [monitorNext, h, hx]

theorem monitorNext_alerting_noConflict (h : m.mstate = .alerting) :
    monitorNext c false ch now m = some (⟨.clear, m.since⟩, .clear) := by
  simp only [monitorNext, h]

theorem monitorNext_alerting_conflict (h : m.mstate = .alerting) :
    monitorNext c true ch now m = some (m, .noEvent) := by
  simp only [monitorNext, h]

variable {s : State} {m' : Monitor} {ev : Event}

/-- An evaluation is the monitor's transition on the bands as they stand (44_conflict_monitor.md R128). -/
theorem evaluate_of_monitorNext {conflict : Bool} (hc : conflicts s.cfg s.st1.band s.st2.band = conflict)
    (h : monitorNext s.cfg conflict ch s.now s.mon = some (m', ev)) : evaluate ch s = some (s.withMon m', ev) := by
  rw [evaluate, hc, h, Option.map_some]

end MonitorTransitions

section AlertEdges

/-- The event that goes with the monitor's code before and after (44_conflict_monitor.md R127). -/
def EventMarksEdge (before after : MState) (ev : Event) : Prop :=
  (ev = .raise ↔ before = .holding ∧ after = .alerting) ∧ (ev = .clear ↔ before = .alerting ∧ after = .clear)

/-- A code that stays is no edge. -/
theorem eventMarksEdge_self (x : MState) : EventMarksEdge x x .noEvent := by
  cases x <;> simp [EventMarksEdge]

variable {s t s' : State} {ev : Event} {ch : Bool}

/-- One transition's event marks its edge (44_conflict_monitor.md R127). -/
theorem monitorNext_marksEdge {c : Config} {x : Bool} {now : Time} {m m' : Monitor}
    (h : monitorNext c x ch now m = some (m', ev)) : EventMarksEdge m.mstate m'.mstate ev := by
  obtain ⟨hm, -, rfl, rfl⟩ | ⟨hm, -, rfl, rfl⟩ | ⟨hm, -, rfl, rfl⟩ | ⟨hm, -, -, rfl, rfl⟩ | ⟨hm, -, -, -, rfl, rfl⟩ |
    ⟨hm, -, -, -, rfl, rfl⟩ | ⟨hm, -, rfl, rfl⟩ | ⟨hm, -, rfl, rfl⟩ := monitorNext_cases h
  all_goals simp [EventMarksEdge, hm]

theorem evaluate_marksEdge (h : evaluate ch s = some (s', ev)) : EventMarksEdge s.mon.mstate s'.mon.mstate ev := by
  obtain ⟨m, rfl, hm⟩ := evaluate_cases h
  exact monitorNext_marksEdge hm

/-- A command reports the event of its evaluation, and none where it makes none (43_station_processor.md R111). -/
theorem exec_marksEdge {i : Instr} (h : exec i s = .next t) :
    EventMarksEdge s.mon.mstate t.mon.mstate t.out.event := by
  obtain ⟨k, -, ⟨o, rfl, ho⟩ | ⟨m, f, fv, -, rfl⟩ | ⟨v, s', ev, -, he, rfl⟩⟩ := exec_cases h
  · have hnone : o.event = .noEvent := by
      obtain rfl | rfl | ⟨v, -, rfl⟩ := ho <;> rfl
    rw [withOut_out, hnone]
    exact eventMarksEdge_self s.mon.mstate
  · rw [withOut_mon, withStation_mon]
    exact eventMarksEdge_self s.mon.mstate
  · have hedge := evaluate_marksEdge he
    rwa [withStation_mon] at hedge

/-- A frame the validator rejects triggers no evaluation (44_conflict_monitor.md R126). -/
theorem processFrame_marksEdge {f : List Byte} (h : processFrame f s = .next t) :
    EventMarksEdge s.mon.mstate t.mon.mstate t.out.event := by
  obtain ⟨e, -, rfl⟩ | ⟨i, -, hi⟩ := processFrame_cases h
  · exact eventMarksEdge_self s.mon.mstate
  · exact exec_marksEdge hi

/-- A FEED that completes no frame triggers no evaluation (44_conflict_monitor.md R126). -/
theorem finishAssembly_marksEdge {r : AsmResult} (h : finishAssembly r s = .next t) :
    EventMarksEdge s.mon.mstate t.mon.mstate t.out.event := by
  cases r with
  | quiet | badFraming =>
    cases h
    exact eventMarksEdge_self s.mon.mstate
  | frame f => exact processFrame_marksEdge h

/-- Every operation but RESET reports exactly the alert's edge (44_conflict_monitor.md R127). -/
theorem applyOp_marksEdge {op : HostOp} (h : applyOp op s = .next t) (hop : op ≠ .reset) :
    EventMarksEdge s.mon.mstate t.mon.mstate t.out.event := by
  cases op with
  | feed l b now =>
    obtain ⟨-, a, a', r, -, -, hr⟩ := feedOp_cases h
    exact finishAssembly_marksEdge (s := (s.withNow now).withAsm l a') hr
  | frame f now => exact processFrame_marksEdge (s := s.withNow now) h
  | tick now =>
    obtain ⟨s', ev, he, rfl⟩ := tickOp_cases h
    have hedge : EventMarksEdge s.mon.mstate s'.mon.mstate ev := evaluate_marksEdge (s := s.withNow now) he
    exact hedge
  | reset => exact absurd rfl hop

end AlertEdges

/-- Settles O33: the step is its operation, whose event marks the edge; a RESET ends in `resetOp`, whose output is all
zero. -/
theorem eventsMarkAlertEdges : Obligations.EventsMarkAlertEdges := by
  refine fun s t op rest hp h => ⟨fun hop => ?edges, fun hop => ?reset⟩
  case edges =>
    obtain ⟨-, -, -, happ⟩ := applyOp_of_step hp h
    exact applyOp_marksEdge (s := s.withPending rest) happ hop
  case reset =>
    subst hop
    rw [eq_resetOp_of_step hp h]
    rfl

/-- Settles O28: the predicate's three tests, and their symmetry. -/
theorem conflictPredicate : Obligations.ConflictPredicate := fun c a b => ⟨conflicts_iff, conflicts_comm c a b⟩

/-- Settles O29: the difference and the test on their unsigned values. -/
theorem elapsedIsModular : Obligations.ElapsedIsModular := fun _ now since =>
  ⟨toNat_elapsed now since, holdExpired_iff⟩

/-- Settles O30: one transition of the monitor for each clause; where it keeps the record, the state is unchanged. -/
theorem evaluationTransitions : Obligations.EvaluationTransitions := by
  intro s changed c
  refine ⟨fun hm hc => ?clearConflict, fun hm hc => ?clearNone, fun hm hc => ?holdingNone,
    fun hm hc hch => ?holdingChanged, fun hm hc hch hx => ?holdingExpired, fun hm hc hch hx => ?holdingRunning,
    fun hm hc => ?alertingNone, fun hm hc => ?alertingConflict⟩
  case clearConflict => exact evaluate_of_monitorNext hc (monitorNext_clear_conflict hm)
  case clearNone => exact evaluate_of_monitorNext hc (monitorNext_clear_noConflict hm)
  case holdingNone => exact evaluate_of_monitorNext hc (monitorNext_holding_noConflict hm)
  case holdingChanged =>
    subst hch
    exact evaluate_of_monitorNext hc (monitorNext_holding_changed hm)
  case holdingExpired =>
    subst hch
    exact evaluate_of_monitorNext hc (monitorNext_holding_expired hm (holdExpired_iff.2 hx))
  case holdingRunning =>
    subst hch
    exact evaluate_of_monitorNext hc (monitorNext_holding_running hm (holdExpired_eq_false_iff.2 hx))
  case alertingNone => exact evaluate_of_monitorNext hc (monitorNext_alerting_noConflict hm)
  case alertingConflict => exact evaluate_of_monitorNext hc (monitorNext_alerting_conflict hm)

end Sys2Proof.Machine

/-! ## The host operations

A TICK that is next is one evaluation with no band change (45_interface_ops.md R134); where the monitor agrees with the
bands, such an evaluation can only raise the alert (44_conflict_monitor.md R129). -/

namespace Sys2Proof.Machine

section Tick

variable {s s' : State} {ev : Event} {t : Time} {rest : List HostOp}

/-- The monitor agrees with the bands: it is away from CLEAR exactly in a conflict (44_conflict_monitor.md R129). -/
theorem coherent_iff (s : State) :
    s.coherent = true ↔ (s.mon.mstate ≠ .clear ↔ conflicts s.cfg s.st1.band s.st2.band = true) := by
  rw [State.coherent, beq_iff_eq, Bool.eq_iff_iff, bne_iff_ne]

/-- With no band change and a monitor that agrees with the bands, the transitions into HOLDING and CLEAR cannot happen
(44_conflict_monitor.md R129). -/
theorem monitorNext_poll_of_agrees {c : Config} {x : Bool} {now : Time} {m m' : Monitor}
    (hagree : m.mstate ≠ .clear ↔ x = true) (h : monitorNext c x false now m = some (m', ev)) :
    m' = m ∨ (m.mstate = .holding ∧ m' = ⟨.alerting, m.since⟩) := by
  obtain ⟨-, -, hm', -⟩ | ⟨hm, hx, -, -⟩ | ⟨hm, hx, -, -⟩ | ⟨-, -, hch, -, -⟩ | ⟨hm, -, -, -, hm', -⟩ |
    ⟨-, -, -, -, hm', -⟩ | ⟨hm, hx, -, -⟩ | ⟨-, -, hm', -⟩ := monitorNext_cases h
  · exact .inl hm'
  · exact absurd hm (hagree.2 hx)
  · simp [hm, hx] at hagree
  · cases hch
  · exact .inr ⟨hm, hm'⟩
  · exact .inl hm'
  · simp [hm, hx] at hagree
  · exact .inl hm'

/-- An evaluation with no band change keeps a monitor that agrees with the bands, or raises the alert. -/
theorem evaluate_poll_of_coherent (hc : s.coherent = true) (h : evaluate false s = some (s', ev)) :
    s'.mon = s.mon ∨ (s.mon.mstate = .holding ∧ s'.mon = ⟨.alerting, s.mon.since⟩) := by
  obtain ⟨m, rfl, hm⟩ := evaluate_cases h
  exact monitorNext_poll_of_agrees ((coherent_iff s).1 hc) hm

/-- A TICK is the evaluation's state with its event as the output (45_interface_ops.md R134). -/
theorem tickOp_of_evaluate (h : evaluate false s = some (s', ev)) : tickOp s = .next (s'.withOut (eventOut ev)) := by
  rw [tickOp, h]

/-- A TICK that is next evaluates from its own time. -/
theorem step_of_tickReady (h : opReady s (.tick t) rest) : step s = tickOp (opStart s t rest) :=
  step_of_ready h

/-- In a state that accepts its next operation the evaluation of a TICK answers. -/
theorem exists_evaluate_of_tickReady (h : opReady s (.tick t) rest) :
    ∃ s' ev, evaluate false (opStart s t rest) = some (s', ev) := by
  obtain ⟨-, -, hcode, -⟩ := h
  have hm : (opStart s t rest).mon.mstate ≠ .reserved := mstate_of_hasReservedCode hcode
  obtain ⟨⟨s', ev⟩, he⟩ := Option.isSome_iff_exists.1 (evaluate_isSome false hm)
  exact ⟨s', ev, he⟩

end Tick

/-- Settles O32: the evaluation answers, as no code is reserved; the step is its state and event; its frame is
`evaluate_cases`, and coherence leaves it HOLDING to ALERTING alone. -/
theorem tickResult : Obligations.TickResult := by
  intro s t rest h
  obtain ⟨s', ev, he⟩ := exists_evaluate_of_tickReady h
  refine ⟨s', ev, he, ?steps, ?frame, fun hc => ?monitor⟩
  case steps => exact (step_of_tickReady h).trans (tickOp_of_evaluate he)
  case frame =>
    obtain ⟨m, rfl, -⟩ := evaluate_cases he
    rfl
  case monitor => exact evaluate_poll_of_coherent (s := opStart s t rest) hc he

end Sys2Proof.Machine

/-! ## The encoder and the decoder

What the decoder accepts is the layout of 30_encoding.md R50 with two addresses that name parties; so an accepted frame
is its command's, and a command's frame is accepted. -/

namespace Sys2Proof

section RoundTrip

variable {c : Config} {i : Instr} {f : List Byte}

/-- No party's address is a start marker (00_scope.md R8), so no frame of a command has a third one. -/
theorem addrOf_ne_startOfMsg (hc : c.radioAddr ≠ startOfMsg) (p : Party) : addrOf c p ≠ startOfMsg := by
  cases p with
  | controller => exact (by decide : ctrlAddr ≠ startOfMsg)
  | radio => exact hc

/-- All that is known of an accepted frame: each check passed (40_frame_decoder.md R67 to R74). -/
theorem accepted_of_decode (h : decode c f = .ok i) :
    ∃ b2 b3 b4 data dest src, f = rawFrame startOfMsg startOfMsg b2 b3 b4 data endOfMsg ∧
      data.length + 6 ≤ c.maxFrameLen ∧ partyOf c b2 = some dest ∧ partyOf c b3 = some src ∧
      i = commandOf b4 dest src data := by
  have hmin : 6 ≤ f.length := by
    by_contra hlt
    rw [decode_tooShort (not_le.1 hlt)] at h
    cases h
  have hmax : f.length ≤ c.maxFrameLen := by
    by_contra hlt
    rw [decode_tooLong hmin (not_le.1 hlt)] at h
    cases h
  obtain ⟨b0, b1, b2, b3, b4, data, e, rfl⟩ := exists_rawFrame hmin
  rw [rawFrame_length] at hmax
  have hmarkers : ¬(b0 ≠ startOfMsg ∨ b1 ≠ startOfMsg ∨ b2 = startOfMsg ∨ e ≠ endOfMsg) := fun hbad => by
    rw [decode_badFraming hmax hbad] at h
    cases h
  obtain ⟨rfl, rfl, h2, rfl⟩ : b0 = startOfMsg ∧ b1 = startOfMsg ∧ b2 ≠ startOfMsg ∧ e = endOfMsg := by
    simpa [not_or] using hmarkers
  have hparties : ¬(partyOf c b2 = none ∨ partyOf c b3 = none) := fun hbad => by
    rw [decode_badAddress hmax h2 hbad] at h
    cases h
  obtain ⟨⟨dest, hd⟩, src, hs⟩ : (∃ p, partyOf c b2 = some p) ∧ ∃ p, partyOf c b3 = some p := by
    simpa [not_or, Option.ne_none_iff_exists'] using hparties
  rw [decode_accepted hmax h2 hd hs] at h
  cases h
  exact ⟨b2, b3, b4, data, dest, src, rfl, hmax, hd, hs, rfl⟩

/-- A command is well-formed where its code is its own and its frame fits (30_encoding.md R51). -/
theorem Instr.wf_iff : i.wf c = true ↔ i.codeOk = true ∧ i.data.length + 6 ≤ c.maxFrameLen := by
  rw [Instr.wf, Bool.and_eq_true, decide_eq_true_iff, minFrameLen, Nat.add_comm]

end RoundTrip

/-- Settles O2: the encoder fills the layout's places with the command's fields, which the decoder's checks pass and
dispatch puts together again. -/
theorem decodeOfEncode : Obligations.DecodeOfEncode := by
  intro c i hc hi
  obtain ⟨⟨hctrl, -, hstart⟩, -⟩ := c.wf_iff.1 hc
  obtain ⟨hcode, hlen⟩ := Instr.wf_iff.1 hi
  rw [encode_eq_rawFrame, decode_accepted hlen (addrOf_ne_startOfMsg hstart i.dest) (partyOf_addrOf hctrl i.dest)
    (partyOf_addrOf hctrl i.src), commandOf_fields hcode]

/-- Settles O3: each field of the accepted layout is encoded back to its own byte. -/
theorem encodeOfDecode : Obligations.EncodeOfDecode := by
  intro c f i h
  obtain ⟨b2, b3, b4, data, dest, src, rfl, hmax, hd, hs, rfl⟩ := accepted_of_decode h
  refine ⟨?frame, Instr.wf_iff.2 ⟨commandOf_codeOk b4 dest src data, by rwa [commandOf_data]⟩⟩
  case frame =>
    rw [encode_eq_rawFrame, commandOf_dest, commandOf_src, commandOf_cmd, commandOf_data, addrOf_of_partyOf hd,
      addrOf_of_partyOf hs]

/-- Settles O5: the decoder evaluated on five frames of known bytes. -/
theorem specFramesDecode : Obligations.SpecFramesDecode := by
  unfold Obligations.SpecFramesDecode
  decide

end Sys2Proof

namespace Sys2Proof.Machine

section FrequencyEncoder

variable {q : Nat} {b : Byte} {v : Nat}

/-- The byte of a digit pair has the tens digit above the units digit (41_value_codec.md R92). -/
theorem toNat_encodePair (h : q ≤ 99) : (encodePair q).toNat = q / 10 * 16 + q % 10 := by
  rw [encodePair, BitVec.toNat_ofNat, Nat.mod_eq_of_lt (by omega)]

theorem bcdValid_encodePair (h : q ≤ 99) : bcdValid (encodePair q) = true := by
  rw [bcdValid_iff, toNat_encodePair h]
  omega

theorem pairValue_encodePair (h : q ≤ 99) : pairValue (encodePair q) = q := by
  rw [pairValue_eq, toNat_encodePair h]
  omega

/-- A valid byte is the encoding of its digit pair. -/
theorem encodePair_pairValue (h : bcdValid b = true) : encodePair (pairValue b) = b := by
  obtain ⟨hhi, hlo⟩ := bcdValid_iff.1 h
  apply BitVec.eq_of_toNat_eq
  rw [toNat_encodePair (pairValue_le h), pairValue_eq]
  omega

/-- The four digit pairs of the reference encoder, least significant first (41_value_codec.md R92). -/
theorem encodeFrequency_eq (v : Nat) : encodeFrequency v =
    [encodePair (v % 100), encodePair (v / 100 % 100), encodePair (v / 100 ^ 2 % 100),
      encodePair (v / 100 ^ 3 % 100)] := by
  simp [encodeFrequency, freqDataSize, List.range_succ]

theorem bcdValid_of_mem_encodeFrequency (v : Nat) : ∀ b ∈ encodeFrequency v, bcdValid b = true := by
  intro b hb
  obtain ⟨j, -, rfl⟩ := List.mem_map.1 hb
  exact bcdValid_encodePair (by omega)

theorem bcdValue_encodeFrequency (h : v ≤ 99999999) : bcdValue (encodeFrequency v) = v := by
  have hpair : ∀ n, pairValue (encodePair (n % 100)) = n % 100 := fun n => pairValue_encodePair (by omega)
  rw [encodeFrequency_eq, bcdValue_four, hpair, hpair, hpair, hpair]
  omega

/-- The digit pairs of four valid bytes are read back off their sum. -/
theorem encodeFrequency_bcdValue {d : List Byte} (hlen : d.length = 4) (h : ∀ b ∈ d, bcdValid b = true) :
    encodeFrequency (bcdValue d) = d := by
  obtain ⟨d0, d1, d2, d3, rfl⟩ := List.length_eq_four.1 hlen
  simp only [List.forall_mem_cons] at h
  obtain ⟨h0, h1, h2, h3, -⟩ := h
  have hle0 : pairValue d0 ≤ 99 := pairValue_le h0
  have hle1 : pairValue d1 ≤ 99 := pairValue_le h1
  have hle2 : pairValue d2 ≤ 99 := pairValue_le h2
  have hle3 : pairValue d3 ≤ 99 := pairValue_le h3
  have hpairs : bcdValue [d0, d1, d2, d3] % 100 = pairValue d0 ∧
      bcdValue [d0, d1, d2, d3] / 100 % 100 = pairValue d1 ∧
      bcdValue [d0, d1, d2, d3] / 100 ^ 2 % 100 = pairValue d2 ∧
      bcdValue [d0, d1, d2, d3] / 100 ^ 3 % 100 = pairValue d3 := by
    rw [bcdValue_four]
    omega
  obtain ⟨hp0, hp1, hp2, hp3⟩ := hpairs
  rw [encodeFrequency_eq, hp0, hp1, hp2, hp3, encodePair_pairValue h0, encodePair_pairValue h1,
    encodePair_pairValue h2, encodePair_pairValue h3]

/-- A frequency that decodes has only valid bytes (41_value_codec.md R91). -/
theorem valid_of_decodeFrequency {d : List Byte} (h : (decodeFrequency d).1 = false) : ∀ b ∈ d, bcdValid b = true := by
  by_contra hnot
  rw [decodeFrequency_of_not_valid hnot] at h
  cases h

end FrequencyEncoder

/-- Settles O8: the sum of the encoded pairs is the number, and the pairs of the sum are the bytes. -/
theorem frequencyRoundTrip : Obligations.FrequencyRoundTrip := by
  refine ⟨fun v hv => ⟨by rw [encodeFrequency_eq]; rfl, ?decodes⟩, fun d v hlen h => ?encodes⟩
  case decodes =>
    rw [decodeFrequency_of_valid (bcdValid_of_mem_encodeFrequency v), bcdValue_encodeFrequency hv]
  case encodes =>
    have hvalid : ∀ b ∈ d, bcdValid b = true := valid_of_decodeFrequency (by rw [h])
    have hv : v.toNat = bcdValue d := by rw [← toNat_decodeFrequency hlen hvalid, h]
    rw [hv, encodeFrequency_bcdValue hlen hvalid]

end Sys2Proof.Machine

/-! ## What the assembler keeps, and the frames it completes

`Assembler.wf` is one equivalence per state of the assembler, and every byte keeps it. A frame under assembly is two
start markers and bytes that are no markers, so a completed one is a delimited frame, whose framing checks all pass. -/

namespace Sys2Proof.Machine

section Framed

variable {c : Config} {b : Byte} {body : List Byte}

/-- A frame as the assembler delimits it (40_frame_decoder.md R85), whatever stands between its markers. -/
def framed (body : List Byte) : List Byte := startOfMsg :: startOfMsg :: (body ++ [endOfMsg])

@[simp] theorem framed_length : (framed body).length = body.length + 3 := by simp [framed]

theorem notMarker_iff : notMarker b = true ↔ b ≠ startOfMsg ∧ b ≠ endOfMsg := by
  rw [notMarker, Bool.and_eq_true, bne_iff_ne, bne_iff_ne]

theorem framed_last : (framed body)[body.length + 2]? = some endOfMsg := by simp [framed]

/-- Between the two start markers and the end marker stands the body. -/
theorem framed_between {j : Nat} {x : Byte} (h2 : 2 ≤ j) (hj : j < body.length + 2)
    (hx : (framed body)[j]? = some x) : x ∈ body := by
  obtain ⟨k, rfl⟩ := Nat.exists_eq_add_of_le' h2
  have hk : body[k]? = some x := by
    rwa [framed, List.getElem?_cons_succ, List.getElem?_cons_succ, List.getElem?_append_left (by omega)] at hx
  exact List.mem_of_getElem? hk

/-- A delimited frame that is too short is told by its length; any other passes every framing check. -/
theorem decode_framed_ne_badFraming (hbody : ∀ x ∈ body, notMarker x = true) (hmax : body.length + 3 ≤ c.maxFrameLen) :
    decode c (framed body) ≠ .err .badFraming := by
  match body with
  | [] | [_] | [_, _] => rw [decode_tooShort (by simp [minFrameLen])]; simp
  | b2 :: b3 :: b4 :: data =>
    have h2 : b2 ≠ startOfMsg := (notMarker_iff.1 (hbody b2 List.mem_cons_self)).1
    have hlen : data.length + 6 ≤ c.maxFrameLen := hmax
    rw [show framed (b2 :: b3 :: b4 :: data) = rawFrame startOfMsg startOfMsg b2 b3 b4 data endOfMsg from rfl]
    cases hd : partyOf c b2 with
    | none => simp [decode_badAddress hlen h2 (.inl hd)]
    | some dest =>
      cases hs : partyOf c b3 with
      | none => simp [decode_badAddress hlen h2 (.inr hs)]
      | some src => simp [decode_accepted hlen h2 hd hs]

end Framed

section AssemblerWf

variable {maxLen n : Nat} {b : Byte} {buf : List Byte} {a a' : Assembler} {r : AsmResult}

theorem wf_hunt_iff : Assembler.wf maxLen ⟨.hunt, n, buf⟩ = true ↔ buf.length = maxLen ∧ n = 0 := by
  simp [Assembler.wf]

theorem wf_sync1_iff :
    Assembler.wf maxLen ⟨.sync1, n, buf⟩ = true ↔ buf.length = maxLen ∧ n = 1 ∧ buf[0]? = some startOfMsg := by
  simp [Assembler.wf]

theorem wf_body_iff : Assembler.wf maxLen ⟨.body, n, buf⟩ = true ↔
    buf.length = maxLen ∧ 2 ≤ n ∧ n ≤ maxLen ∧ buf[0]? = some startOfMsg ∧ buf[1]? = some startOfMsg ∧
      ∀ x ∈ (buf.take n).drop 2, notMarker x = true := by
  simp only [Assembler.wf, Bool.and_eq_true, decide_eq_true_eq, List.all_eq_true, and_assoc]

/-- The buffer's cells stay as many as they are (10_state.md R25). -/
theorem length_buf_of_wf (h : a.wf maxLen = true) : a.buf.length = maxLen := by
  rw [Assembler.wf, Bool.and_eq_true, decide_eq_true_iff] at h
  exact h.1

/-- A byte stored at `cnt` is the last of the valid bytes. -/
theorem take_succ_set (h : n < buf.length) : (buf.set n b).take (n + 1) = buf.take n ++ [b] := by
  rw [List.take_add_one, List.getElem?_set_self h, List.take_set_of_le le_rfl, Option.toList_some]

/-- In BODY the valid bytes are two start markers and what follows them. -/
theorem take_eq_markers_append (hn : 2 ≤ n) (h0 : buf[0]? = some startOfMsg) (h1 : buf[1]? = some startOfMsg) :
    buf.take n = startOfMsg :: startOfMsg :: (buf.take n).drop 2 := by
  obtain ⟨k, rfl⟩ := Nat.exists_eq_add_of_le' hn
  match buf, h0, h1 with
  | x0 :: x1 :: rest, h0, h1 =>
    cases h0
    cases h1
    rfl

/-- A start marker begins a frame in any buffer (40_frame_decoder.md R78, R81). -/
theorem wf_sync1_of_start (hmax : 2 ≤ maxLen) (hbuf : buf.length = maxLen) :
    Assembler.wf maxLen ⟨.sync1, 1, buf.set 0 startOfMsg⟩ = true :=
  wf_sync1_iff.2 ⟨by rwa [List.length_set], rfl, List.getElem?_set_self (by omega)⟩

theorem huntByte_keeps_wf (hmax : 2 ≤ maxLen) (hbuf : buf.length = maxLen) :
    (huntByte b ⟨.hunt, 0, buf⟩).wf maxLen = true := by
  by_cases hb : b = startOfMsg
  · subst hb
    rw [huntByte_start]
    exact wf_sync1_of_start hmax hbuf
  · rw [huntByte_of_ne hb]
    exact wf_hunt_iff.2 ⟨hbuf, rfl⟩

/-- The second start marker begins the body (40_frame_decoder.md R79). -/
theorem wf_body_of_start (hmax : 2 ≤ maxLen) (h : Assembler.wf maxLen ⟨.sync1, n, buf⟩ = true) :
    Assembler.wf maxLen ⟨.body, 2, buf.set 1 startOfMsg⟩ = true := by
  obtain ⟨hbuf, -, h0⟩ := wf_sync1_iff.1 h
  have hset0 : (buf.set 1 startOfMsg)[0]? = some startOfMsg := by rwa [List.getElem?_set_ne (by omega)]
  have hset1 : (buf.set 1 startOfMsg)[1]? = some startOfMsg := List.getElem?_set_self (by omega)
  have hnone : ((buf.set 1 startOfMsg).take 2).drop 2 = [] := List.drop_eq_nil_of_le (List.length_take_le _ _)
  refine wf_body_iff.2 ⟨by rwa [List.length_set], le_rfl, hmax, hset0, hset1, fun x hx => ?_⟩
  rw [hnone] at hx
  cases hx

/-- A byte of the body is stored behind the valid ones (40_frame_decoder.md R80). -/
theorem wf_body_of_data (h : Assembler.wf maxLen ⟨.body, n, buf⟩ = true) (hn : n ≠ maxLen)
    (hb : notMarker b = true) : Assembler.wf maxLen ⟨.body, n + 1, buf.set n b⟩ = true := by
  obtain ⟨hbuf, h2, hle, h0, h1, hbody⟩ := wf_body_iff.1 h
  have hlt : n < buf.length := by omega
  have hset0 : (buf.set n b)[0]? = some startOfMsg := by rwa [List.getElem?_set_ne (by omega)]
  have hset1 : (buf.set n b)[1]? = some startOfMsg := by rwa [List.getElem?_set_ne (by omega)]
  refine wf_body_iff.2 ⟨by rwa [List.length_set], by omega, by omega, hset0, hset1, ?_⟩
  rw [take_succ_set hlt, List.drop_append_of_le_length (by rw [List.length_take_of_le hlt.le]; exact h2)]
  exact List.forall_mem_append.2 ⟨hbody, List.forall_mem_singleton.2 hb⟩

/-- Every byte keeps a legal partial frame (40_frame_decoder.md R78 to R84). -/
theorem assembleByte_keeps_wf (hmax : 2 ≤ maxLen) (ha : a.wf maxLen = true)
    (h : assembleByte maxLen b a = some (a', r)) : a'.wf maxLen = true := by
  have hbuf : a.buf.length = maxLen := length_buf_of_wf ha
  obtain ⟨st, n, buf⟩ := a
  obtain ⟨rfl, rfl, -⟩ | ⟨rfl, -, rfl, -⟩ | ⟨rfl, -, rfl, -⟩ | ⟨rfl, -, rfl, -⟩ | ⟨rfl, -, -, rfl, -⟩ |
    ⟨rfl, -, -, rfl, -⟩ | ⟨rfl, hn, hs, he, rfl, -⟩ := assembleByte_cases h
  · obtain ⟨-, rfl⟩ := wf_hunt_iff.1 ha
    exact huntByte_keeps_wf hmax hbuf
  · exact wf_body_of_start hmax ha
  · exact wf_hunt_iff.2 ⟨hbuf, rfl⟩
  · exact huntByte_keeps_wf hmax hbuf
  · exact wf_sync1_of_start hmax hbuf
  · exact wf_hunt_iff.2 ⟨by rwa [List.length_set], rfl⟩
  · exact wf_body_of_data ha hn (notMarker_iff.2 ⟨hs, he⟩)

/-- A frame that a legal assembler completes is a delimited one with no marker in its body (40_frame_decoder.md R85). -/
theorem framed_of_assembleByte {f : List Byte} (ha : a.wf maxLen = true)
    (h : assembleByte maxLen b a = some (a', .frame f)) :
    ∃ body, f = framed body ∧ body.length + 3 ≤ maxLen ∧ ∀ x ∈ body, notMarker x = true := by
  obtain ⟨st, n, buf⟩ := a
  obtain ⟨-, -, hr⟩ | ⟨-, -, -, hr⟩ | ⟨-, -, -, hr⟩ | ⟨-, -, -, hr⟩ | ⟨-, -, -, -, hr⟩ | ⟨rfl, hn, -, -, hr⟩ |
    ⟨-, -, -, -, -, hr⟩ := assembleByte_cases h <;> cases hr
  obtain ⟨hbuf, h2, hle, h0, h1, hbody⟩ := wf_body_iff.1 ha
  have hlt : n < buf.length := by
    have hn : n ≠ maxLen := hn
    omega
  refine ⟨(buf.take n).drop 2, ?_, ?_, hbody⟩
  · rw [take_succ_set hlt, take_eq_markers_append h2 h0 h1]
    rfl
  · rw [List.length_drop, List.length_take_of_le hlt.le]
    omega

end AssemblerWf

/-- Settles O25: the completed frame is a delimited one, whose body holds no marker. -/
theorem assembledFramesAreFramed : Obligations.AssembledFramesAreFramed := by
  intro maxLen b a a' f ha h
  obtain ⟨body, rfl, hlen, hbody⟩ := framed_of_assembleByte ha h
  rw [framed_length]
  refine ⟨by omega, hlen, rfl, rfl, framed_last, fun j x h2 hj hx => ?between, fun c hc => ?framing⟩
  case between => exact notMarker_iff.1 (hbody x (framed_between h2 (by omega) hx))
  case framing => exact decode_framed_ne_badFraming hbody (hc.symm ▸ hlen)

end Sys2Proof.Machine

/-! ## What an operation writes

The inversion lemmas of Laws/Ops put together: a frame reports, stores a mode, or stores a band and evaluates; an
operation is a frame with or without a byte for an assembler, a poll, or a RESET. What an operation does to the monitor
is then one of three things. Every later property of a step is a case analysis on these. -/

namespace Sys2Proof.Machine

section Retuned

variable (s : State) (k : StationId) (v : Word)

/-- Station `k` with the band of `v` and the operation's time (43_station_processor.md R111). -/
def State.retuned : State :=
  s.withStation k { s.station k with band := bandFor s.cfg v, lastChange := s.now }

@[simp] theorem retuned_cfg : (s.retuned k v).cfg = s.cfg := withStation_cfg ..
@[simp] theorem retuned_wasReset : (s.retuned k v).wasReset = s.wasReset := withStation_wasReset ..
@[simp] theorem retuned_mon : (s.retuned k v).mon = s.mon := withStation_mon ..
@[simp] theorem retuned_asms : (s.retuned k v).asms = s.asms := withStation_asms ..
@[simp] theorem retuned_now : (s.retuned k v).now = s.now := withStation_now ..
@[simp] theorem retuned_pending : (s.retuned k v).pending = s.pending := withStation_pending ..

@[simp] theorem retuned_station_self : (s.retuned k v).station k =
    { s.station k with band := bandFor s.cfg v, lastChange := s.now } :=
  withStation_station_self ..

theorem retuned_station_of_ne {j : StationId} (h : j ≠ k) : (s.retuned k v).station j = s.station j :=
  withStation_station_of_ne _ _ _ h

end Retuned

section Effects

variable {s t : State}

/-- The records of an operation that writes no station and no monitor field. -/
inductive Report : Output → Prop where
  | quiet : Report Output.zero
  | rejected (e : FrameError) (he : e ≠ .badEncoding) : Report (errorOut e 0)
  | badEncoding (k : StationId) : Report (errorOut .badEncoding (stationCode k))
  | ignored (k : StationId) : Report (ignoredOut k)
  | sameBand (k : StationId) (v : Word) (band : Byte) : Report (freqOut k v band .noEvent)

/-- Everything that delivering a frame, or failing to, makes of a state (43_station_processor.md R118). -/
inductive FrameEffect (s : State) : State → Prop where
  | report (o : Output) (ho : Report o) : FrameEffect s (s.withOut o)
  | storeMode (k : StationId) (m f : Byte) (fv : Bool) (hf : fv = true ∨ f = 0) :
    FrameEffect s ((s.withStation k { s.station k with
      mode := decodeMode s.cfg m, filter := f, filterValid := fv }).withOut (modeOut k (decodeMode s.cfg m)))
  | storeBand (k : StationId) (v : Word) (mon : Monitor) (ev : Event) (hband : bandFor s.cfg v ≠ (s.station k).band)
    (hmon : monitorNext s.cfg (conflicts s.cfg (s.retuned k v).st1.band (s.retuned k v).st2.band) true s.now s.mon =
      some (mon, ev)) :
    FrameEffect s (((s.retuned k v).withMon mon).withOut (freqOut k v (bandFor s.cfg v) ev))

/-- Everything that an operation makes of the state it is taken in (45_interface_ops.md R132 to R135). -/
inductive OpEffect (s : State) : HostOp → State → Prop where
  | feed (l : Nat) (b : Byte) (u : Time) (a a' : Assembler) (r : AsmResult) (t : State) (hasm : s.asms[l]? = some a)
    (hbyte : assembleByte s.cfg.maxFrameLen b a = some (a', r))
    (hframe : FrameEffect ((s.withNow u).withAsm l a') t) : OpEffect s (.feed l b u) t
  | frame (f : List Byte) (u : Time) (t : State) (hframe : FrameEffect (s.withNow u) t) : OpEffect s (.frame f u) t
  | tick (u : Time) (mon : Monitor) (ev : Event)
    (hmon : monitorNext s.cfg (conflicts s.cfg s.st1.band s.st2.band) false u s.mon = some (mon, ev)) :
    OpEffect s (.tick u) (((s.withNow u).withMon mon).withOut (eventOut ev))
  | reset : OpEffect s .reset (resetOp s)

/-- The validator answers with three of the four errors (90_conflicts.md C7). -/
theorem decode_ne_badEncoding (c : Config) (f : List Byte) : decode c f ≠ .err .badEncoding := by
  unfold decode
  repeat' split
  all_goals simp

theorem exec_effect {i : Instr} (h : exec i s = .next t) : FrameEffect s t := by
  obtain ⟨k, -, ⟨o, rfl, ho⟩ | ⟨m, f, fv, hf, rfl⟩ | ⟨v, s', ev, hband, he, rfl⟩⟩ := exec_cases h
  · obtain rfl | rfl | ⟨v, -, rfl⟩ := ho
    · exact .report _ (.ignored k)
    · exact .report _ (.badEncoding k)
    · exact .report _ (.sameBand k v _)
  · exact .storeMode k m f fv hf
  · obtain ⟨mon, rfl, hmon⟩ := evaluate_cases he
    rw [withStation_cfg, withStation_now, withStation_mon] at hmon
    exact .storeBand k v mon ev hband hmon

theorem processFrame_effect {f : List Byte} (h : processFrame f s = .next t) : FrameEffect s t := by
  obtain ⟨e, he, rfl⟩ | ⟨i, -, hi⟩ := processFrame_cases h
  · exact .report _ (.rejected e fun hbad => decode_ne_badEncoding s.cfg f (hbad ▸ he))
  · exact exec_effect hi

theorem finishAssembly_effect {r : AsmResult} (h : finishAssembly r s = .next t) : FrameEffect s t := by
  cases r with
  | quiet => cases h; exact .report _ .quiet
  | badFraming => cases h; exact .report _ (.rejected .badFraming (by decide))
  | frame f => exact processFrame_effect h

theorem applyOp_effect {op : HostOp} (h : applyOp op s = .next t) : OpEffect s op t := by
  cases op with
  | feed l b u =>
    obtain ⟨-, a, a', r, hasm, hbyte, hr⟩ := feedOp_cases h
    exact .feed l b u a a' r t hasm hbyte (finishAssembly_effect hr)
  | frame f u => exact .frame f u t (processFrame_effect h)
  | tick u =>
    obtain ⟨s', ev, he, rfl⟩ := tickOp_cases h
    obtain ⟨mon, rfl, hmon⟩ := evaluate_cases he
    exact .tick u mon ev hmon
  | reset => cases h; exact .reset

/-- A step that answers, with an operation next, has that operation's effect. -/
theorem step_effect {op : HostOp} {rest : List HostOp} (hp : s.pending = op :: rest) (h : step s = .next t) :
    OpEffect (s.withPending rest) op t := by
  obtain ⟨-, -, -, happ⟩ := applyOp_of_step hp h
  exact applyOp_effect happ

/-- A frame writes the stations, the monitor and the output alone. -/
theorem FrameEffect.frame (h : FrameEffect s t) :
    t = { s with st1 := t.st1, st2 := t.st2, mon := t.mon, out := t.out } := by
  cases h with
  | report o ho => rfl
  | storeMode k m f fv hf => cases k <;> rfl
  | storeBand k v mon ev hband hmon => cases k <;> rfl

theorem FrameEffect.cfg (h : FrameEffect s t) : t.cfg = s.cfg := by rw [h.frame]
theorem FrameEffect.wasReset (h : FrameEffect s t) : t.wasReset = s.wasReset := by rw [h.frame]
theorem FrameEffect.asms (h : FrameEffect s t) : t.asms = s.asms := by rw [h.frame]
theorem FrameEffect.pending (h : FrameEffect s t) : t.pending = s.pending := by rw [h.frame]

end Effects

section MonitorSteps

variable {s t : State} {op : HostOp} {x ch : Bool} {c : Config} {now : Time} {m m' : Monitor} {ev : Event}

/-- The two ways the evaluation of the monitor comes about, and the third, that there is none (44_conflict_monitor.md
R126): no band changes and the monitor stays; a band changes and the monitor is evaluated on the new bands; or a TICK
polls it. -/
inductive MonitorStep (s : State) (op : HostOp) (t : State) : Prop where
  | kept (hbands : ∀ k, (t.station k).band = (s.station k).band) (hmon : t.mon = s.mon)
    (hev : t.out.event = .noEvent)
  | retuned (k : StationId) (hband : (t.station k).band ≠ (s.station k).band) (now : Time)
    (hmon : monitorNext s.cfg (conflicts s.cfg t.st1.band t.st2.band) true now s.mon = some (t.mon, t.out.event))
  | polled (u : Time) (hop : op = .tick u) (hbands : ∀ k, (t.station k).band = (s.station k).band)
    (hmon : monitorNext s.cfg (conflicts s.cfg t.st1.band t.st2.band) false u s.mon = some (t.mon, t.out.event))

/-- What keeps both bands keeps whether they conflict. -/
theorem conflicts_of_bands (h : ∀ k, (t.station k).band = (s.station k).band) :
    conflicts c t.st1.band t.st2.band = conflicts c s.st1.band s.st2.band :=
  congrArg₂ (conflicts c) (h .one) (h .two)

theorem Report.event {o : Output} (h : Report o) : o.event = .noEvent := by cases h <;> rfl

theorem FrameEffect.monitorStep (h : FrameEffect s t) (op : HostOp) : MonitorStep s op t := by
  cases h with
  | report o ho => exact .kept (fun k => by rw [withOut_station]) rfl ho.event
  | storeMode k m f fv hf =>
    refine .kept (fun j => ?_) (withStation_mon ..) rfl
    rw [withOut_station]
    by_cases hj : j = k
    · rw [hj, withStation_station_self]
    · rw [withStation_station_of_ne _ _ _ hj]
  | storeBand k v mon ev hband hmon =>
    refine .retuned k ?_ s.now hmon
    rwa [withOut_station, withMon_station, retuned_station_self]

/-- Of the state before, the monitor's step reads the stations, the configuration and the monitor. -/
theorem MonitorStep.congr {s' : State} (h : MonitorStep s' op t) (hst : ∀ k, s'.station k = s.station k)
    (hcfg : s'.cfg = s.cfg) (hm : s'.mon = s.mon) : MonitorStep s op t := by
  cases h with
  | kept hbands hmon hev => exact .kept (fun k => by rw [← hst, hbands]) (hmon.trans hm) hev
  | retuned k hband now hmon => exact .retuned k (by rwa [← hst]) now (by rwa [← hcfg, ← hm])
  | polled u hop hbands hmon => exact .polled u hop (fun k => by rw [← hst, hbands]) (by rwa [← hcfg, ← hm])

/-- The monitor's step under any operation but RESET. -/
theorem OpEffect.monitorStep (h : OpEffect s op t) (hop : op ≠ .reset) : MonitorStep s op t := by
  cases h with
  | feed l b u a a' r _ hasm hbyte hframe =>
    exact (hframe.monitorStep _).congr (fun k => (withAsm_station ..).trans (withNow_station ..)) rfl rfl
  | frame f u _ hframe => exact (hframe.monitorStep _).congr (withNow_station s u) rfl rfl
  | tick u mon ev hmon => exact .polled u rfl (fun k => by rw [withOut_station, withMon_station, withNow_station]) hmon
  | reset => exact absurd rfl hop

/-- Where an operation is next, the step's effect on the monitor. -/
theorem step_monitorStep {rest : List HostOp} (hp : s.pending = op :: rest) (hop : op ≠ .reset)
    (h : step s = .next t) : MonitorStep s op t :=
  ((step_effect hp h).monitorStep hop).congr (withPending_station s rest) rfl rfl

/-- A transition ends in agreement with the bands it was given, wherever it began (44_conflict_monitor.md R129). -/
theorem monitorNext_agrees (h : monitorNext c x ch now m = some (m', ev)) :
    m'.mstate ≠ .reserved ∧ (m'.mstate ≠ .clear ↔ x = true) := by
  obtain ⟨hm, rfl, rfl, -⟩ | ⟨-, rfl, rfl, -⟩ | ⟨-, rfl, rfl, -⟩ | ⟨-, rfl, -, rfl, -⟩ | ⟨-, rfl, -, -, rfl, -⟩ |
    ⟨hm, rfl, -, -, rfl, -⟩ | ⟨-, rfl, rfl, -⟩ | ⟨hm, rfl, rfl, -⟩ := monitorNext_cases h
  all_goals simp [*]

end MonitorSteps

end Sys2Proof.Machine

/-! ## The invariant

A RESET establishes it from any state. Every other operation keeps it part by part: the stations by what the decoders
can answer, the assemblers by `assembleByte_keeps_wf`, and the monitor because a transition ends in agreement with the
bands. -/

namespace Sys2Proof.Machine

section StationWf

variable {c : Config} {st : Station} {s t : State}

/-- A legal station record, clause by clause (10_state.md R16 to R18). -/
theorem Station.wf_iff : Station.wf c st = true ↔ st.band.toNat ≤ c.bandTable.length ∧
    (st.mode = 0 ∨ ∃ e ∈ c.modeTable, e.2 = st.mode) ∧ (st.filterValid = true ∨ st.filter = 0) := by
  simp only [Station.wf, Bool.and_eq_true, Bool.or_eq_true, decide_eq_true_eq, beq_iff_eq, List.any_eq_true, and_assoc]

theorem Station.wf_reset (c : Config) : Station.wf c Station.reset = true :=
  Station.wf_iff.2 ⟨Nat.zero_le _, .inl rfl, .inr rfl⟩

/-- The band look-up answers a band code of the table or 0 (42_band_mapper.md R100). -/
theorem toNat_bandFor_le (hwf : bandTableWf c.bandTable = true) (v : Word) :
    (bandFor c v).toNat ≤ c.bandTable.length := by
  by_cases hnone : ∀ r ∈ c.bandTable, ¬(r.low ≤ v ∧ v ≤ r.high)
  · rw [bandFor_eq_zero hnone]
    exact Nat.zero_le _
  · push Not at hnone
    obtain ⟨r, hr, hlow, hhigh⟩ := hnone
    obtain ⟨i, hi⟩ := List.getElem?_of_mem hr
    obtain ⟨hlt, -⟩ := List.getElem?_eq_some_iff.1 hi
    rw [toNat_bandFor_of_getElem? hwf hi ⟨hlow, hhigh⟩]
    exact hlt

/-- The mode decoder answers a mode code of the table or 0 (41_value_codec.md R94). -/
theorem decodeMode_eq_zero_or_mem (c : Config) (m : Byte) :
    decodeMode c m = 0 ∨ ∃ e ∈ c.modeTable, e.2 = decodeMode c m := by
  rw [decodeMode]
  cases hm : c.modeTable.lookup m with
  | none => exact .inl rfl
  | some code =>
    obtain ⟨before, after, htable, -⟩ := List.lookup_eq_some_iff.1 hm
    exact .inr ⟨(m, code), by simp [htable], rfl⟩

/-- The table that the configuration check admits. -/
theorem bandTableWf_of_wf (h : c.wf = true) : bandTableWf c.bandTable = true := by
  obtain ⟨-, -, -, hbands, -⟩ := c.wf_iff.1 h
  exact (bandTableWf_iff _).2 hbands

/-- A frame leaves legal station records. -/
theorem FrameEffect.station_wf (h : FrameEffect s t) (hc : s.cfg.wf = true)
    (hs : ∀ k, Station.wf s.cfg (s.station k) = true) (j : StationId) : Station.wf s.cfg (t.station j) = true := by
  cases h with
  | report o ho => exact withOut_station s o j ▸ hs j
  | storeMode k m f fv hf =>
    rw [withOut_station]
    by_cases hj : j = k
    · obtain ⟨hband, -⟩ := Station.wf_iff.1 (hs k)
      rw [hj, withStation_station_self]
      exact Station.wf_iff.2 ⟨hband, decodeMode_eq_zero_or_mem s.cfg m, hf⟩
    · rw [withStation_station_of_ne _ _ _ hj]
      exact hs j
  | storeBand k v mon ev hband hmon =>
    rw [withOut_station, withMon_station]
    by_cases hj : j = k
    · obtain ⟨-, hmode, hfilter⟩ := Station.wf_iff.1 (hs k)
      rw [hj, retuned_station_self]
      exact Station.wf_iff.2 ⟨toNat_bandFor_le (bandTableWf_of_wf hc) v, hmode, hfilter⟩
    · rw [retuned_station_of_ne _ _ _ hj]
      exact hs j

end StationWf

section Invariant

variable {s t : State} {op : HostOp}

theorem Assembler.wf_reset (c : Config) : Assembler.wf c.maxFrameLen (Assembler.reset c) = true :=
  wf_hunt_iff.2 ⟨List.length_replicate, rfl⟩

/-- Two Unclassified bands never conflict (44_conflict_monitor.md R119). -/
theorem conflicts_zero (c : Config) (b : Byte) : conflicts c 0 b = false := rfl

/-- The reset values are good ones under any well-formed configuration (10_state.md R33). -/
theorem inv_resetOp (hc : s.cfg.wf = true) : (resetOp s).inv = true := by
  refine (inv_iff _).2 ⟨hc, rfl, List.length_replicate, fun a ha => ?asms, fun k => ?stations, by simp [Monitor.reset],
    iff_of_false (not_not_intro rfl) (Bool.eq_false_iff.1 (conflicts_zero s.cfg 0))⟩
  case asms =>
    rw [List.eq_of_mem_replicate ha]
    exact Assembler.wf_reset s.cfg
  case stations =>
    rw [resetOp_station]
    exact Station.wf_reset s.cfg

/-- No operation changes the configuration. -/
theorem OpEffect.cfg (h : OpEffect s op t) : t.cfg = s.cfg := by
  cases h with
  | feed l b u a a' r _ hasm hbyte hframe => exact hframe.cfg
  | frame f u _ hframe => exact hframe.cfg
  | tick u mon ev hmon => rfl
  | reset => rfl

theorem OpEffect.wasReset (h : OpEffect s op t) (hs : s.wasReset = true) : t.wasReset = true := by
  cases h with
  | feed l b u a a' r _ hasm hbyte hframe => exact hframe.wasReset.trans hs
  | frame f u _ hframe => exact hframe.wasReset.trans hs
  | tick u mon ev hmon => exact hs
  | reset => rfl

/-- Every link keeps its assembler. -/
theorem OpEffect.length_asms (h : OpEffect s op t) (hs : s.asms.length = s.cfg.nLinks) :
    t.asms.length = s.cfg.nLinks := by
  cases h with
  | feed l b u a a' r _ hasm hbyte hframe => rwa [hframe.asms, withAsm_asms, List.length_set]
  | frame f u _ hframe => rwa [hframe.asms]
  | tick u mon ev hmon => exact hs
  | reset => exact List.length_replicate

/-- Every assembler keeps a legal partial frame. -/
theorem OpEffect.asm_wf (h : OpEffect s op t) (hmax : 2 ≤ s.cfg.maxFrameLen)
    (hs : ∀ a ∈ s.asms, a.wf s.cfg.maxFrameLen = true) : ∀ a ∈ t.asms, a.wf s.cfg.maxFrameLen = true := by
  cases h with
  | feed l b u a a' r _ hasm hbyte hframe =>
    intro x hx
    rw [hframe.asms, withAsm_asms] at hx
    obtain hold | rfl := List.mem_or_eq_of_mem_set hx
    · exact hs x hold
    · exact assembleByte_keeps_wf hmax (hs a (List.mem_of_getElem? hasm)) hbyte
  | frame f u _ hframe => rwa [hframe.asms]
  | tick u mon ev hmon => exact hs
  | reset =>
    intro x hx
    rw [List.eq_of_mem_replicate hx]
    exact Assembler.wf_reset s.cfg

/-- Every station record stays legal. -/
theorem OpEffect.station_wf (h : OpEffect s op t) (hc : s.cfg.wf = true)
    (hs : ∀ k, Station.wf s.cfg (s.station k) = true) (k : StationId) : Station.wf s.cfg (t.station k) = true := by
  cases h with
  | feed l b u a a' r _ hasm hbyte hframe =>
    exact hframe.station_wf hc (fun k => by rw [withAsm_station, withNow_station]; exact hs k) k
  | frame f u _ hframe => exact hframe.station_wf hc (fun k => by rw [withNow_station]; exact hs k) k
  | tick u mon ev hmon =>
    rw [withOut_station, withMon_station, withNow_station]
    exact hs k
  | reset =>
    rw [resetOp_station]
    exact Station.wf_reset s.cfg

/-- The monitor keeps its agreement with the bands: an evaluation brings it about, and without one neither changes
(44_conflict_monitor.md R129). -/
theorem MonitorStep.agrees (h : MonitorStep s op t)
    (hs : s.mon.mstate ≠ .reserved ∧ (s.mon.mstate ≠ .clear ↔ conflicts s.cfg s.st1.band s.st2.band = true)) :
    t.mon.mstate ≠ .reserved ∧ (t.mon.mstate ≠ .clear ↔ conflicts s.cfg t.st1.band t.st2.band = true) := by
  cases h with
  | kept hbands hmon hev => rwa [hmon, conflicts_of_bands hbands]
  | retuned k hband now hmon => exact monitorNext_agrees hmon
  | polled u hop hbands hmon => exact monitorNext_agrees hmon

/-- Every operation keeps the invariant. -/
theorem OpEffect.keeps_inv (h : OpEffect s op t) (hs : s.inv = true) : t.inv = true := by
  obtain ⟨hc, hw, hlen, hasms, hst, hmon⟩ := (inv_iff s).1 hs
  by_cases hop : op = .reset
  · subst hop
    cases h
    exact inv_resetOp hc
  · obtain ⟨-, hmax, -⟩ := s.cfg.wf_iff.1 hc
    rw [inv_iff, h.cfg]
    exact ⟨hc, h.wasReset hw, h.length_asms hlen, h.asm_wf (by omega) hasms, h.station_wf hc hst,
      (h.monitorStep hop).agrees hmon⟩

end Invariant

/-- Settles O40: an idle step changes nothing, and every operation keeps the invariant part by part. -/
theorem stepKeepsInvariant : Obligations.StepKeepsInvariant := by
  intro s t hs h
  obtain ⟨-, ⟨-, rfl⟩ | ⟨op, rest, -, -, -, happ⟩⟩ := stepPending_cases h
  · exact hs
  · exact (applyOp_effect happ).keeps_inv hs

/-- Settles O41: a RESET that answers ends in `resetOp`, whose values are good ones. -/
theorem resetEstablishesInvariant : Obligations.ResetEstablishesInvariant := by
  intro s t rest hp h
  have hc : s.cfg.wf = true := cfg_wf_of_step h
  rw [eq_resetOp_of_step hp h]
  exact inv_resetOp (s := s.withPending rest) hc

/-- Settles O39: `State.reset` is what a RESET makes of it, and its configuration is well-formed. -/
theorem invariantAtReset : Obligations.InvariantAtReset :=
  inv_resetOp (s := State.reset) (by decide)

end Sys2Proof.Machine

/-! ## The alert

Over the invariant the monitor agrees with the bands, so a poll either raises the alert or does nothing; and any
operation's step of the monitor is one transition of a known state. -/

namespace Sys2Proof.Machine

section Polls

variable {s : State} {c : Config} {x : Bool} {now u : Time} {m : Monitor} {rest : List HostOp}

/-- The invariant's two clauses on the monitor. -/
theorem agrees_of_inv (h : s.inv = true) :
    s.mon.mstate ≠ .reserved ∧ (s.mon.mstate ≠ .clear ↔ conflicts s.cfg s.st1.band s.st2.band = true) := by
  obtain ⟨-, -, -, -, -, hmon⟩ := (inv_iff s).1 h
  exact hmon

/-- A good state away from CLEAR is one in conflict. -/
theorem conflicts_of_inv (h : s.inv = true) (hm : s.mon.mstate ≠ .clear) :
    conflicts s.cfg s.st1.band s.st2.band = true := by
  obtain ⟨-, hagree⟩ := agrees_of_inv h
  exact hagree.1 hm

/-- A poll of a monitor that agrees with the bands does nothing but at the end of a hold. -/
theorem monitorNext_poll_quiet (hres : m.mstate ≠ .reserved) (hagree : m.mstate ≠ .clear ↔ x = true)
    (hquiet : ¬(m.mstate = .holding ∧ holdExpired c now m.since = true)) :
    monitorNext c x false now m = some (m, .noEvent) := by
  cases hm : m.mstate with
  | clear =>
    obtain rfl : x = false := by simpa [hm] using hagree
    exact monitorNext_clear_noConflict hm
  | holding =>
    obtain rfl : x = true := hagree.1 (by simp [hm])
    exact monitorNext_holding_running hm (Bool.eq_false_iff.2 fun hx => hquiet ⟨hm, hx⟩)
  | alerting =>
    obtain rfl : x = true := hagree.1 (by simp [hm])
    exact monitorNext_alerting_conflict hm
  | reserved => exact absurd hm hres

/-- A TICK in a good state, at the end of a hold. -/
theorem step_tick_raises (hs : s.inv = true) (hp : s.pending = .tick u :: rest) (hm : s.mon.mstate = .holding)
    (hx : holdExpired s.cfg u s.mon.since = true) :
    step s = .next (((opStart s u rest).withMon ⟨.alerting, s.mon.since⟩).withOut (eventOut .raise)) := by
  have hc : conflicts s.cfg s.st1.band s.st2.band = true := conflicts_of_inv hs (by simp [hm])
  have he : evaluate false (opStart s u rest) =
      some ((opStart s u rest).withMon ⟨.alerting, s.mon.since⟩, .raise) :=
    evaluate_of_monitorNext hc (monitorNext_holding_expired hm hx)
  rw [step_of_tickReady (opReady_of_inv hs hp), tickOp_of_evaluate he]

/-- Any other TICK in a good state. -/
theorem step_tick_quiet (hs : s.inv = true) (hp : s.pending = .tick u :: rest)
    (hquiet : ¬(s.mon.mstate = .holding ∧ holdExpired s.cfg u s.mon.since = true)) :
    step s = .next ((opStart s u rest).withOut Output.zero) := by
  obtain ⟨hres, hagree⟩ := agrees_of_inv hs
  have he : evaluate false (opStart s u rest) = some ((opStart s u rest).withMon s.mon, .noEvent) :=
    evaluate_of_monitorNext rfl (monitorNext_poll_quiet hres hagree hquiet)
  rw [step_of_tickReady (opReady_of_inv hs hp), tickOp_of_evaluate he]
  rfl

end Polls

/-- Settles O38: a poll of a monitor that agrees with the bands raises at the end of a hold and else does nothing. -/
theorem tickInGoodState : Obligations.TickInGoodState := by
  refine fun s u rest hs hp => ⟨fun hm hx => ?raises, fun hquiet => ?quiet⟩
  case raises => exact step_tick_raises hs hp hm (holdExpired_iff.2 hx)
  case quiet => exact step_tick_quiet hs hp fun ⟨hm, hx⟩ => hquiet ⟨hm, holdExpired_iff.1 hx⟩

section AlertSteps

variable {s t : State} {c : Config} {x ch : Bool} {now : Time} {m m' : Monitor} {ev : Event}

theorem alert_iff (s : State) : s.alert = true ↔ s.mon.mstate = .alerting := decide_eq_true_iff

theorem alert_eq_false_iff (s : State) : s.alert = false ↔ s.mon.mstate ≠ .alerting := decide_eq_false_iff_not

/-- The one transition into ALERTING (44_conflict_monitor.md R123): a poll at the end of a hold in conflict. -/
theorem monitorNext_into_alerting (h : monitorNext c x ch now m = some (m', ev)) (hm : m.mstate ≠ .alerting)
    (hm' : m'.mstate = .alerting) :
    m.mstate = .holding ∧ x = true ∧ ch = false ∧ holdExpired c now m.since = true := by
  obtain ⟨-, -, rfl, -⟩ | ⟨-, -, rfl, -⟩ | ⟨-, -, rfl, -⟩ | ⟨-, -, -, rfl, -⟩ | ⟨hhold, hx, hch, hexp, -, -⟩ |
    ⟨-, -, -, -, rfl, -⟩ | ⟨-, -, rfl, -⟩ | ⟨-, -, rfl, -⟩ := monitorNext_cases h
  · exact absurd hm' hm
  · cases hm'
  · cases hm'
  · cases hm'
  · exact ⟨hhold, hx, hch, hexp⟩
  · exact absurd hm' hm
  · cases hm'
  · exact absurd hm' hm

/-- Every evaluation from ALERTING is told by whether the bands conflict (44_conflict_monitor.md R124). -/
theorem monitorNext_from_alerting (h : monitorNext c x ch now m = some (m', ev)) (hm : m.mstate = .alerting) :
    (x = false → m'.mstate = .clear ∧ m'.mstate ≠ .alerting ∧ ev = .clear) ∧
    (x = true → m' = m ∧ m'.mstate = .alerting ∧ ev = .noEvent) := by
  refine ⟨fun hx => ?_, fun hx => ?_⟩
  · subst hx
    rw [monitorNext_alerting_noConflict hm] at h
    cases h
    exact ⟨rfl, by simp, rfl⟩
  · subst hx
    rw [monitorNext_alerting_conflict hm] at h
    cases h
    exact ⟨rfl, hm, rfl⟩

end AlertSteps

/-- Settles O34: only a poll enters ALERTING; a RESET leaves the monitor CLEAR, and an idle step as it is. -/
theorem onlyTickRaisesAlert : Obligations.OnlyTickRaisesAlert := by
  intro s t h hs ht
  rw [alert_eq_false_iff] at hs
  rw [alert_iff] at ht
  obtain ⟨-, ⟨-, rfl⟩ | ⟨op, rest, hp, -⟩⟩ := stepPending_cases h
  · exact absurd ht hs
  by_cases hop : op = .reset
  · subst hop
    rw [eq_resetOp_of_step hp h] at ht
    cases ht
  cases step_monitorStep hp hop h with
  | kept hbands hmon hev => exact absurd (hmon ▸ ht) hs
  | retuned k hband now hmon =>
    obtain ⟨-, -, hch, -⟩ := monitorNext_into_alerting hmon hs ht
    cases hch
  | polled u hu hbands hmon =>
    obtain ⟨hhold, hconf, -, hexp⟩ := monitorNext_into_alerting hmon hs ht
    exact ⟨u, rest, hu ▸ hp, hhold, conflicts_of_bands hbands ▸ hconf, holdExpired_iff.1 hexp⟩

/-- Settles O35: with the bands kept only a poll evaluates the monitor, and before the end of the hold it does
nothing. -/
theorem holdKeptUntilHoldTime : Obligations.HoldKeptUntilHoldTime := by
  intro s t op rest hs hm hp hop h h1 h2 hearly
  have hbands : ∀ k, (t.station k).band = (s.station k).band := fun k => by cases k; exacts [h1, h2]
  have hkept : t.mon = s.mon := by
    cases step_monitorStep hp hop h with
    | kept _ hmon _ => exact hmon
    | retuned k hband _ _ => exact absurd (hbands k) hband
    | polled u hu _ hmon =>
      have hconf : conflicts s.cfg s.st1.band s.st2.band = true := conflicts_of_inv hs (by simp [hm])
      rw [conflicts_of_bands hbands, hconf,
        monitorNext_holding_running hm (holdExpired_eq_false_iff.2 (hearly u hu))] at hmon
      exact (congrArg Prod.fst (Option.some.inj hmon)).symm
  exact ⟨hkept, (alert_eq_false_iff t).2 (by simp [hkept, hm])⟩

/-- Settles O37: a step without an evaluation keeps the conflict; every evaluation from ALERTING is told by the bands it
leaves. -/
theorem alertClearsAtOnce : Obligations.AlertClearsAtOnce := by
  intro s t op rest hs hm hp hop h
  rw [alert_eq_false_iff, alert_iff, step_cfg h]
  cases step_monitorStep hp hop h with
  | kept hbands hmon hev =>
    have hc : conflicts s.cfg t.st1.band t.st2.band = true := by
      rw [conflicts_of_bands hbands]
      exact conflicts_of_inv hs (by simp [hm])
    exact ⟨fun hnone => absurd (hc.symm.trans hnone) (by decide), fun _ => ⟨hmon, hmon ▸ hm, hev⟩⟩
  | retuned k hband now hmon => exact monitorNext_from_alerting hmon hm
  | polled u hu hbands hmon => exact monitorNext_from_alerting hmon hm

/-- Settles O31: the transition is a function of what the two states agree on. -/
theorem evaluationReadsBandsOnly : Obligations.EvaluationReadsBandsOnly := by
  intro s u s' u' changed ev ev' hcfg h1 h2 hmon hnow hs hu
  obtain ⟨m, rfl, hm⟩ := evaluate_cases hs
  obtain ⟨m', rfl, hm'⟩ := evaluate_cases hu
  rw [hcfg, h1, h2, hmon, hnow, hm'] at hm
  cases hm
  exact ⟨rfl, rfl⟩

section Runs

variable {s t : State} {n : Nat}

/-- A run that answers is a step that answers and a run from there. -/
theorem exists_step_of_run (h : Host.Core.run Sys2Proof.core (n + 1) s = .next t) :
    ∃ u, step s = .next u ∧ Host.Core.run Sys2Proof.core n u = .next t := by
  cases hs : step s with
  | next u => exact ⟨u, rfl, by rwa [run_succ n hs] at h⟩
  | fault e => cases e
  | refused r =>
    simp only [Host.Core.run] at h
    rw [show Sys2Proof.core.step s = _ from hs] at h
    cases h

/-- A run of `n + k` steps is the run of the last `k` from where the first `n` end. -/
theorem run_add (k : Nat) (h : Host.Core.run Sys2Proof.core n s = .next t) :
    Host.Core.run Sys2Proof.core (n + k) s = Host.Core.run Sys2Proof.core k t := by
  induction n generalizing s with
  | zero =>
    cases h
    rw [Nat.zero_add]
  | succ n ih =>
    obtain ⟨u, hu, hrun⟩ := exists_step_of_run h
    rw [Nat.add_right_comm, run_succ _ hu, ih hrun]

/-- A run that answers, and a step after it. -/
theorem run_succ_last (h : Host.Core.run Sys2Proof.core n s = .next t) :
    Host.Core.run Sys2Proof.core (n + 1) s = step t := by
  rw [run_add 1 h, run_one]

/-- What an early TICK leaves of a good state. -/
def HeldAs (s t : State) : Prop :=
  t.inv = true ∧ t.cfg = s.cfg ∧ t.mon = s.mon ∧ t.st1 = s.st1 ∧ t.st2 = s.st2

theorem HeldAs.trans {u : State} (h : HeldAs s t) (h' : HeldAs t u) : HeldAs s u := by
  obtain ⟨-, hcfg, hmon, h1, h2⟩ := h
  obtain ⟨hinv, hcfg', hmon', h1', h2'⟩ := h'
  exact ⟨hinv, hcfg'.trans hcfg, hmon'.trans hmon, h1'.trans h1, h2'.trans h2⟩

/-- Early TICKs leave a hold as it is, however many of them have come. -/
theorem run_earlyTicks {ts : List Time} {rest : List HostOp} (hs : s.inv = true)
    (hearly : ∀ x ∈ ts, (elapsed x s.mon.since).toNat < s.cfg.holdTime.toNat)
    (hp : s.pending = ts.map .tick ++ rest) (hn : n ≤ ts.length) :
    ∃ t, Host.Core.run Sys2Proof.core n s = .next t ∧ HeldAs s t ∧ t.pending = (ts.drop n).map .tick ++ rest := by
  induction n generalizing s ts with
  | zero => exact ⟨s, rfl, ⟨hs, rfl, rfl, rfl, rfl⟩, hp⟩
  | succ n ih =>
    match ts, hn with
    | x :: ts, hn =>
      obtain ⟨hx, hearly⟩ := List.forall_mem_cons.1 hearly
      have hstep : step s = .next ((opStart s x (ts.map .tick ++ rest)).withOut Output.zero) :=
        step_tick_quiet hs hp fun ⟨_, hexp⟩ => hx.not_ge (holdExpired_iff.1 hexp)
      have hheld : HeldAs s ((opStart s x (ts.map .tick ++ rest)).withOut Output.zero) :=
        ⟨stepKeepsInvariant s _ hs hstep, rfl, rfl, rfl, rfl⟩
      obtain ⟨t, hrun, ht, hpt⟩ := ih hheld.1 hearly rfl (Nat.le_of_succ_le_succ hn)
      exact ⟨t, by rw [run_succ n hstep, hrun], hheld.trans ht, hpt⟩

end Runs

/-- Settles O36: the early TICKs hold the state, and the one after them is a poll at the end of the hold. -/
theorem debounceByTicks : Obligations.DebounceByTicks := by
  refine fun s ts u rest hs hm hearly hlate hp => ⟨fun n hn => ?down, ?raised⟩
  case down =>
    obtain ⟨t, hrun, ⟨-, -, hmon, -⟩, -⟩ := run_earlyTicks hs hearly hp hn
    exact ⟨t, hrun, (alert_eq_false_iff t).2 (by simp [hmon, hm]), hmon⟩
  case raised =>
    obtain ⟨t, hrun, ⟨hinv, hcfg, hmon, h1, h2⟩, hpt⟩ := run_earlyTicks hs hearly hp le_rfl
    rw [List.drop_length] at hpt
    have hexp : holdExpired t.cfg u t.mon.since = true := by
      rw [hcfg, hmon]
      exact holdExpired_iff.2 hlate
    have hsince : t.mon.since = s.mon.since := congrArg Monitor.since hmon
    have hstep := step_tick_raises hinv hpt (hmon ▸ hm) hexp
    exact ⟨_, (run_succ_last hrun).trans hstep, rfl, rfl, hsince, h1, h2⟩

end Sys2Proof.Machine

/-! ## What commands and operations leave unchanged

A frequency command writes its output alone or retunes its own station; a mode command writes its output alone or that
station's mode and filter. What an operation leaves of the records, the assemblers and the output's fields is read off
`OpEffect`. -/

namespace Sys2Proof.Machine

section CommandFrames

variable {s t : State} {k : StationId} {data : List Byte}

/-- A frequency command reports, or retunes its station and evaluates the monitor (43_station_processor.md R111). -/
theorem applyFreq_writes (h : applyFreq k data s = .next t) :
    (∃ o, t = s.withOut o) ∨
      ∃ v mon o, bandFor s.cfg v ≠ (s.station k).band ∧ t = ((s.retuned k v).withMon mon).withOut o := by
  obtain ⟨-, rfl⟩ | ⟨-, rfl⟩ | ⟨-, -, hu⟩ := applyFreq_cases h
  · exact .inl ⟨_, rfl⟩
  · exact .inl ⟨_, rfl⟩
  · obtain ⟨-, rfl⟩ | ⟨hband, s', ev, he, rfl⟩ := updateBand_cases hu
    · exact .inl ⟨_, rfl⟩
    · obtain ⟨mon, rfl, -⟩ := evaluate_cases he
      exact .inr ⟨_, mon, _, hband, rfl⟩

/-- A mode command reports, or stores its station's mode and filter (43_station_processor.md R114). -/
theorem applyMode_writes (h : applyMode k data s = .next t) :
    ∃ mode filter filterValid o, t = (s.withStation k { s.station k with
      mode := mode, filter := filter, filterValid := filterValid }).withOut o := by
  have hself : s.withStation k { s.station k with
      mode := (s.station k).mode, filter := (s.station k).filter, filterValid := (s.station k).filterValid } = s := by
    cases k <;> rfl
  obtain ⟨-, rfl⟩ | ⟨m, -, rfl⟩ | ⟨m, f, -, rfl⟩ | ⟨-, rfl⟩ := applyMode_cases h
  · exact ⟨_, _, _, _, by rw [hself]⟩
  · exact ⟨_, _, _, _, rfl⟩
  · exact ⟨_, _, _, _, rfl⟩
  · exact ⟨_, _, _, _, by rw [hself]⟩

end CommandFrames

/-- Settles O14: a report writes the output alone; a retuned station has a new band, and the operation's time with
it. -/
theorem freqCommandFrame : Obligations.FreqCommandFrame := by
  intro i dest src data s t hi h k
  rw [exec_eq_applyFreq hi] at h
  obtain ⟨o, rfl⟩ | ⟨v, mon, o, hband, rfl⟩ := applyFreq_writes h
  · simp
  · have hother : ∀ j, j ≠ k → (s.retuned k v).station j = s.station j := fun j hj => retuned_station_of_ne s k v hj
    have hself := retuned_station_self s k v
    simpa [k, hself, hband] using hother

/-- Settles O15: nothing but the mode, the filter and its valid bit of the one station is stored. -/
theorem modeCommandFrame : Obligations.ModeCommandFrame := by
  intro i dest src data s t hi h k
  rw [exec_eq_applyMode hi] at h
  obtain ⟨mode, filter, filterValid, o, rfl⟩ := applyMode_writes h
  have hother : ∀ j, j ≠ k → (s.withStation k { s.station k with
      mode := mode, filter := filter, filterValid := filterValid }).station j = s.station j :=
    fun j hj => withStation_station_of_ne s k _ hj
  simpa [k] using hother

section LastChange

variable {s t : State} {op : HostOp}

/-- A frame writes one station's record at most, and its time of last change with its band (10_state.md R19). -/
theorem FrameEffect.station_eq (h : FrameEffect s t) :
    (∃ k, ∀ j, j ≠ k → t.station j = s.station j) ∧
    ∀ j, (t.station j).lastChange =
      if (t.station j).band = (s.station j).band then (s.station j).lastChange else s.now := by
  cases h with
  | report o ho => exact ⟨⟨.one, fun j _ => withOut_station s o j⟩, fun j => by simp⟩
  | storeMode k m f fv hf =>
    refine ⟨⟨k, fun j hj => by rw [withOut_station, withStation_station_of_ne _ _ _ hj]⟩, fun j => ?_⟩
    rw [withOut_station]
    by_cases hj : j = k
    · simp [hj]
    · simp [withStation_station_of_ne _ _ _ hj]
  | storeBand k v mon ev hband hmon =>
    refine ⟨⟨k, fun j hj => by rw [withOut_station, withMon_station, retuned_station_of_ne _ _ _ hj]⟩, fun j => ?_⟩
    rw [withOut_station, withMon_station]
    by_cases hj : j = k
    · simp [hj, hband]
    · simp [retuned_station_of_ne _ _ _ hj]

/-- Of two stations, all but one is the other one. -/
theorem record_kept_of_ne {k : StationId} (h : ∀ j, j ≠ k → t.station j = s.station j) :
    t.st1 = s.st1 ∨ t.st2 = s.st2 := by
  cases k with
  | one => exact .inr (h .two (by decide))
  | two => exact .inl (h .one (by decide))

/-- At most one record is written; a station keeps its time of last change with its band, and takes the operation's own
with a new one (10_state.md R19). -/
def MarksBandChange (s : State) (op : HostOp) (t : State) : Prop :=
  (t.st1 = s.st1 ∨ t.st2 = s.st2) ∧
  ∀ k, (t.station k).band = (s.station k).band ∧ (t.station k).lastChange = (s.station k).lastChange ∨
    (t.station k).band ≠ (s.station k).band ∧
      ∃ u, ((∃ f, op = .frame f u) ∨ ∃ l b, op = .feed l b u) ∧ (t.station k).lastChange = u

/-- Of the state before, it speaks of the records alone. -/
theorem MarksBandChange.congr {s' : State} (h : MarksBandChange s' op t) (hst : ∀ k, s'.station k = s.station k) :
    MarksBandChange s op t := by
  obtain ⟨hone, hlast⟩ := h
  refine ⟨hone.imp (·.trans (hst .one)) (·.trans (hst .two)), fun k => ?_⟩
  rw [← hst k]
  exact hlast k

/-- The operation that delivers a frame marks the change with its time, which is the current one. -/
theorem FrameEffect.marksBandChange (h : FrameEffect s t)
    (hop : (∃ f, op = .frame f s.now) ∨ ∃ l b, op = .feed l b s.now) : MarksBandChange s op t := by
  obtain ⟨⟨k, hk⟩, hlast⟩ := h.station_eq
  refine ⟨record_kept_of_ne hk, fun j => ?_⟩
  rw [hlast j]
  by_cases hband : (t.station j).band = (s.station j).band
  · exact .inl ⟨hband, if_pos hband⟩
  · exact .inr ⟨hband, s.now, hop, if_neg hband⟩

theorem OpEffect.marksBandChange (h : OpEffect s op t) (hop : op ≠ .reset) : MarksBandChange s op t := by
  cases h with
  | feed l b u a a' r _ hasm hbyte hframe =>
    exact (hframe.marksBandChange (.inr ⟨l, b, rfl⟩)).congr fun k => (withAsm_station ..).trans (withNow_station ..)
  | frame f u _ hframe => exact (hframe.marksBandChange (.inl ⟨f, rfl⟩)).congr (withNow_station s u)
  | tick u mon ev hmon =>
    refine ⟨.inl rfl, fun k => .inl ?_⟩
    rw [withOut_station, withMon_station, withNow_station]
    exact ⟨rfl, rfl⟩
  | reset => exact absurd rfl hop

end LastChange

/-- Settles O20: a frame stores a new band with its own time and no band without it; a TICK stores neither. -/
theorem lastChangeMarksBandChange : Obligations.LastChangeMarksBandChange := by
  intro s t op rest hp hop h
  obtain ⟨hone, hlast⟩ := ((step_effect hp h).marksBandChange hop).congr (withPending_station s rest)
  refine ⟨hone, fun k hband => ?kept, fun k hband => ?changed⟩
  case kept =>
    obtain ⟨-, hkept⟩ | ⟨hnew, -⟩ := hlast k
    · exact hkept
    · exact absurd hband hnew
  case changed =>
    obtain ⟨hold, -⟩ | ⟨-, hu⟩ := hlast k
    · exact absurd hold hband
    · exact hu

/-- Settles O27: a frame writes no assembler, so FEED writes its own link's alone, and FRAME and TICK none. -/
theorem otherAssemblersUntouched : Obligations.OtherAssemblersUntouched := by
  intro s t op rest hp h
  refine ⟨fun f u hop => ?frame, fun u hop => ?tick, fun l b u hop l' hl => ?feed⟩
  all_goals
    subst hop
    have heffect := step_effect hp h
  case frame =>
    cases heffect with
    | frame _ _ _ hframe => exact hframe.asms
  case tick =>
    cases heffect with
    | tick _ mon ev hmon => rfl
  case feed =>
    cases heffect with
    | feed _ _ _ a a' r _ hasm hbyte hframe =>
      rw [hframe.asms, withAsm_getElem?_of_ne _ _ hl]
      rfl

section OutputFields

variable {s t : State} {op : HostOp} {o : Output}

/-- Each field of an output record is 0 where its status gives it no meaning (10_state.md R32). -/
def Output.Applies (o : Output) : Prop :=
  (o.station ≠ 0 ↔ (o.status = .freq ∨ o.status = .mode ∨ o.status = .ignored ∨ o.status = .badEncoding)) ∧
  (o.status ≠ .freq → o.freq = 0 ∧ o.band = 0) ∧ (o.status ≠ .mode → o.mode = 0) ∧
  (o.event ≠ .noEvent → o.status = .freq ∨ o.status = .noFrame)

/-- A station id is 1 or 2 (10_state.md R32). -/
theorem stationCode_ne_zero (k : StationId) : stationCode k ≠ 0 := by cases k <;> decide

theorem freqOut_applies (k : StationId) (v : Word) (band : Byte) (ev : Event) : (freqOut k v band ev).Applies :=
  ⟨iff_of_true (stationCode_ne_zero k) (.inl rfl), fun h => absurd rfl h, fun _ => rfl, fun _ => .inl rfl⟩

theorem modeOut_applies (k : StationId) (mode : Byte) : (modeOut k mode).Applies :=
  ⟨iff_of_true (stationCode_ne_zero k) (.inr (.inl rfl)), fun _ => ⟨rfl, rfl⟩, fun h => absurd rfl h,
    fun h => absurd rfl h⟩

theorem eventOut_applies (ev : Event) : (eventOut ev).Applies :=
  ⟨iff_of_false (not_not_intro rfl) (by simp [eventOut, Output.zero]), fun _ => ⟨rfl, rfl⟩, fun _ => rfl,
    fun _ => .inr rfl⟩

/-- A rejected frame's station is not known (60_exceptions.md R145). -/
theorem errorOut_applies {e : FrameError} (he : e ≠ .badEncoding) : (errorOut e 0).Applies := by
  refine ⟨iff_of_false (not_not_intro rfl) ?_, fun _ => ⟨rfl, rfl⟩, fun _ => rfl, fun h => absurd rfl h⟩
  cases e with
  | badEncoding => exact absurd rfl he
  | tooShort | badFraming | badAddress => simp [errorOut, errorStatus]

theorem Report.applies (h : Report o) : o.Applies := by
  cases h with
  | quiet => exact eventOut_applies .noEvent
  | rejected e he => exact errorOut_applies he
  | badEncoding k =>
    exact ⟨iff_of_true (stationCode_ne_zero k) (.inr (.inr (.inr rfl))), fun _ => ⟨rfl, rfl⟩, fun _ => rfl,
      fun h => absurd rfl h⟩
  | ignored k =>
    exact ⟨iff_of_true (stationCode_ne_zero k) (.inr (.inr (.inl rfl))), fun _ => ⟨rfl, rfl⟩, fun _ => rfl,
      fun h => absurd rfl h⟩
  | sameBand k v band => exact freqOut_applies k v band .noEvent

theorem FrameEffect.out_applies (h : FrameEffect s t) : t.out.Applies := by
  cases h with
  | report o ho => exact ho.applies
  | storeMode k m f fv hf => exact modeOut_applies k _
  | storeBand k v mon ev hband hmon => exact freqOut_applies k v _ ev

theorem OpEffect.out_applies (h : OpEffect s op t) : t.out.Applies := by
  cases h with
  | feed l b u a a' r _ hasm hbyte hframe => exact hframe.out_applies
  | frame f u _ hframe => exact hframe.out_applies
  | tick u mon ev hmon => exact eventOut_applies ev
  | reset => exact eventOut_applies .noEvent

end OutputFields

/-- Settles O53: each output record an operation can give is one whose other fields are 0. -/
theorem outputFieldsApply : Obligations.OutputFieldsApply := fun _ _ _ _ hp h => (step_effect hp h).out_applies

end Sys2Proof.Machine

/-! ## The step function's answers

Each refusal has its own check, and where none applies the operation answers a next state: every match of the model has
an arm for a legal state. A good state whose FEEDs name existing links therefore runs on. -/

namespace Sys2Proof.Machine

section Steps

variable {s t : State} {op : HostOp} {rest : List HostOp}

/-- A configuration that is not well-formed is looked at first (00_scope.md R8; log 13). -/
theorem step_badConfig (hc : s.cfg.wf = false) : step s = .refused .configNotWellFormed := by
  rw [step, stepPending, if_neg (Bool.eq_false_iff.1 hc)]

theorem samplePort_badConfig (p : Port) (hc : s.cfg.wf = false) : samplePort p s = .error .configNotWellFormed := by
  rw [samplePort, if_neg (Bool.eq_false_iff.1 hc)]

/-- With no operation pending a step is idle (60_exceptions.md R154; log 2). -/
theorem step_idle (hc : s.cfg.wf = true) (hp : s.pending = []) : step s = .next s := by
  simp [step, stepPending, hc, hp]

/-- After a RESET a reserved code refuses every operation (45_interface_ops.md R138). -/
theorem step_reservedCode (hc : s.cfg.wf = true) (hw : s.wasReset = true) (hr : s.hasReservedCode = true)
    (hp : s.pending = op :: rest) : step s = .refused .unreachableState := by
  have hr' : (s.withPending rest).hasReservedCode = true := hr
  simp [step_of_pending hc hp, hostStep, hw, hr']

/-- A FRAME that is next is processed from its own time. -/
theorem step_of_frameReady {f : List Byte} {u : Time} (h : opReady s (.frame f u) rest) :
    step s = processFrame f (opStart s u rest) :=
  step_of_ready h

theorem processFrame_of_decode_ok {f : List Byte} {i : Instr} (h : decode s.cfg f = .ok i) :
    processFrame f s = exec i s := by
  rw [processFrame, h]

theorem processFrame_of_decode_err {f : List Byte} {e : FrameError} (h : decode s.cfg f = .err e) :
    processFrame f s = .next (s.withOut (errorOut e 0)) := by
  rw [processFrame, h]
  rfl

/-- A refused step has one refusal. -/
theorem step_refused_iff {r r' : Refusal} (h : step s = .refused r) : step s = .refused r' ↔ r' = r := by
  rw [h, Host.Outcome.refused.injEq, eq_comm]

/-- No operation writes the operations to come (20_memory.md §5). -/
theorem OpEffect.pending (h : OpEffect s op t) : t.pending = s.pending := by
  cases h with
  | feed l b u a a' r _ hasm hbyte hframe => exact hframe.pending
  | frame f u _ hframe => exact hframe.pending
  | tick u mon ev hmon => rfl
  | reset => rfl

end Steps

/-- Settles O16: the operation is FRAME's, and the frame its command's. -/
theorem stepRunsDecodedFrame : Obligations.StepRunsDecodedFrame := fun _ _ _ _ _ h hi =>
  (step_of_frameReady h).trans (processFrame_of_decode_ok hi)

/-- Settles O17: the operation is FRAME's, and the frame's error reports with no station. -/
theorem stepReportsRejectedFrame : Obligations.StepReportsRejectedFrame := fun _ _ _ _ _ h he =>
  (step_of_frameReady h).trans (processFrame_of_decode_err he)

/-- Settles O48: the first check of the step function and of a sample. -/
theorem badConfigurationRefused : Obligations.BadConfigurationRefused := fun _ hc =>
  ⟨step_badConfig hc, fun p => samplePort_badConfig p hc⟩

/-- Settles O50: the idle step. -/
theorem idleKeepsState : Obligations.IdleKeepsState := fun _ => step_idle

/-- Settles O44: before the first RESET no reserved code is looked at. -/
theorem firstResetFromAnyState : Obligations.FirstResetFromAnyState := by
  intro s rest hc hw hp
  have hstep : step s = .next (resetOp (s.withPending rest)) :=
    step_of_reset hc (fun hreset => absurd (hw.symm.trans hreset) (by decide)) hp
  exact ⟨_, hstep, afterReset_resetOp s rest⟩

/-- Settles O45: `State.reset` is what a RESET makes of it. -/
theorem resetStateValues : Obligations.ResetStateValues := by
  obtain ⟨hw, hp, -, hst, hm, hsince, halert, hlen, hasms, -⟩ := afterReset_resetOp State.reset []
  exact ⟨hst, rfl, halert, hlen, hasms, hw, hp⟩

/-- Settles O49: the first RESET leaves no reserved code, and the second gives every field the value it has. -/
theorem resetIdempotent : Obligations.ResetIdempotent := by
  intro s t rest hp h
  have hc : s.cfg.wf = true := cfg_wf_of_step h
  have ht : t = resetOp (s.withPending (.reset :: rest)) := eq_resetOp_of_step hp h
  have hcode : t.hasReservedCode = false := hasReservedCode_of_inv (resetEstablishesInvariant s t _ hp h)
  have hct : t.cfg.wf = true := by rwa [step_cfg h]
  rw [step_of_reset (rest := rest) hct (fun _ => hcode) (by rw [ht]; rfl), ht]
  rfl

/-- Settles O6: the codes of each field, listed. -/
theorem fieldCodesAsListed : Obligations.FieldCodesAsListed := ⟨rfl, rfl, rfl, rfl, rfl⟩

section Answers

variable {s : State} {op : HostOp} {k : StationId} {data : List Byte} {a : Assembler}

theorem applyFreq_answers (hm : s.mon.mstate ≠ .reserved) (k : StationId) (data : List Byte) :
    ∃ t, applyFreq k data s = .next t := by
  by_cases h0 : data.length = 0
  · exact ⟨_, applyFreq_of_empty h0⟩
  by_cases h4 : data.length = freqDataSize
  · rw [applyFreq_of_freqDataSize h4]
    by_cases hbad : (decodeFrequency data).1 = true
    · exact ⟨_, if_pos hbad⟩
    rw [if_neg hbad]
    by_cases hsame : bandFor s.cfg (decodeFrequency data).2 = (s.station k).band
    · exact ⟨_, updateBand_of_same hsame⟩
    · obtain ⟨s', ev, -, hu⟩ := exists_evaluate_of_updateBand hm hsame
      exact ⟨_, hu⟩
  · exact ⟨_, applyFreq_of_length_ne h0 h4⟩

theorem applyMode_answers (s : State) (k : StationId) (data : List Byte) : ∃ t, applyMode k data s = .next t := by
  match data with
  | [] | [_] | [_, _] | _ :: _ :: _ :: _ => exact ⟨_, rfl⟩

/-- Every command has its meaning in every legal state (43_station_processor.md R108). -/
theorem exec_answers (hm : s.mon.mstate ≠ .reserved) (i : Instr) : ∃ t, exec i s = .next t := by
  cases i with
  | sendFreq _ src data | queryFreq _ src data => exact applyFreq_answers hm _ data
  | sendMode _ src data | queryMode _ src data => exact applyMode_answers s _ data
  | other _ src _ _ => exact ⟨_, rfl⟩

theorem processFrame_answers (hm : s.mon.mstate ≠ .reserved) (f : List Byte) : ∃ t, processFrame f s = .next t := by
  cases hd : decode s.cfg f with
  | ok i =>
    rw [processFrame_of_decode_ok hd]
    exact exec_answers hm i
  | err e => exact ⟨_, processFrame_of_decode_err hd⟩

theorem finishAssembly_answers (hm : s.mon.mstate ≠ .reserved) (r : AsmResult) :
    ∃ t, finishAssembly r s = .next t := by
  cases r with
  | quiet | badFraming => exact ⟨_, rfl⟩
  | frame f => exact processFrame_answers hm f

theorem assembleByte_answers (ha : a.astate ≠ .reserved) (maxLen : Nat) (b : Byte) :
    ∃ a' r, assembleByte maxLen b a = some (a', r) := by
  unfold assembleByte
  split
  · exact ⟨_, _, rfl⟩
  · split <;> exact ⟨_, _, rfl⟩
  · split_ifs <;> exact ⟨_, _, rfl⟩
  · rename_i hres
    exact absurd hres ha

/-- A state without a reserved code has legal assemblers. -/
theorem astate_of_hasReservedCode (h : s.hasReservedCode = false) (ha : a ∈ s.asms) : a.astate ≠ .reserved := by
  simp only [State.hasReservedCode, Bool.or_eq_false_iff, List.any_eq_false, decide_eq_true_eq] at h
  obtain ⟨-, hasms⟩ := h
  exact hasms a ha

/-- A FEED on a link that exists answers. -/
theorem feedOp_answers {l : Nat} (b : Byte) (hcode : s.hasReservedCode = false) (hlen : s.asms.length = s.cfg.nLinks)
    (hl : l < s.cfg.nLinks) : ∃ t, feedOp l b s = .next t := by
  have hasm : s.asms[l]? = some s.asms[l] := List.getElem?_eq_getElem (hlen ▸ hl)
  obtain ⟨a', r, hbyte⟩ :=
    assembleByte_answers (astate_of_hasReservedCode hcode (List.mem_of_getElem? hasm)) s.cfg.maxFrameLen b
  have hfeed : feedOp l b s = finishAssembly r (s.withAsm l a') := by
    simp only [feedOp, if_neg (Nat.not_le.2 hl), hasm, hbyte]
  rw [hfeed]
  have hm : s.mon.mstate ≠ .reserved := mstate_of_hasReservedCode hcode
  exact finishAssembly_answers (s := s.withAsm l a') hm r

theorem feedOp_badLink {l : Nat} (b : Byte) (hl : s.cfg.nLinks ≤ l) : feedOp l b s = .refused .badLink := if_pos hl

theorem tickOp_answers (hm : s.mon.mstate ≠ .reserved) : ∃ t, tickOp s = .next t := by
  obtain ⟨⟨s', ev⟩, he⟩ := Option.isSome_iff_exists.1 (evaluate_isSome false hm)
  exact ⟨_, tickOp_of_evaluate he⟩

/-- In a state with no reserved code and one assembler a link, every operation answers but a FEED on no link. -/
theorem applyOp_answers (hcode : s.hasReservedCode = false) (hlen : s.asms.length = s.cfg.nLinks)
    (hlink : ∀ l b u, op = .feed l b u → l < s.cfg.nLinks) : ∃ t, applyOp op s = .next t := by
  have hm : s.mon.mstate ≠ .reserved := mstate_of_hasReservedCode hcode
  cases op with
  | feed l b u => exact feedOp_answers (s := s.withNow u) b hcode hlen (hlink l b u rfl)
  | frame f u => exact processFrame_answers (s := s.withNow u) hm f
  | tick u => exact tickOp_answers (s := s.withNow u) hm
  | reset => exact ⟨_, rfl⟩

variable {rest : List HostOp}

/-- A step that no check refuses answers. -/
theorem step_answers (h : opReady s op rest) (hlen : s.asms.length = s.cfg.nLinks)
    (hlink : ∀ l b u, op = .feed l b u → l < s.cfg.nLinks) : ∃ t, step s = .next t := by
  have ⟨_, _, hcode, _⟩ := h
  rw [step_of_ready h]
  exact applyOp_answers (s := s.withPending rest) hcode hlen hlink

end Answers

/-- Settles O47: the checks in their order, each with the one refusal it gives. -/
theorem refusalsExactly : Obligations.RefusalsExactly := by
  refine fun s op rest hp hlen => ⟨fun r => ?_, fun e => nomatch e⟩
  cases hc : s.cfg.wf with
  | false => simp [step_refused_iff (step_badConfig hc)]
  | true =>
    cases hw : s.wasReset with
    | false =>
      by_cases hop : op = .reset
      · subst hop
        simp [step_of_reset hc (fun hreset => absurd (hw.symm.trans hreset) (by decide)) hp]
      · simp [step_refused_iff (step_beforeReset hc hw hop hp), hop]
    | true =>
      cases hr : s.hasReservedCode with
      | true => simp [step_refused_iff (step_reservedCode hc hw hr hp)]
      | false =>
        by_cases hlink : ∃ l b u, op = .feed l b u ∧ s.cfg.nLinks ≤ l
        · have ⟨l, b, u, hop, hl⟩ := hlink
          have hstep : step s = .refused .badLink := by
            subst hop
            rw [step_of_ready ⟨hc, hw, hr, hp⟩]
            exact feedOp_badLink (s := (s.withPending rest).withNow u) b hl
          simp only [step_refused_iff hstep, hlink]
          simp
        · obtain ⟨t, hstep⟩ := step_answers ⟨hc, hw, hr, hp⟩ hlen fun l b u hop =>
            not_le.1 fun hl => hlink ⟨l, b, u, hop, hl⟩
          simp only [hstep, hlink]
          simp

section RunningOn

variable {s t : State} {n : Nat} {ops : List HostOp}

theorem linksOk_iff : linksOk n ops = true ↔ ∀ l b u, .feed l b u ∈ ops → l < n := by
  induction ops using linksOk.induct with
  | case1 => simp [linksOk]
  | case2 l b u rest ih =>
    simp only [linksOk, Bool.and_eq_true, decide_eq_true_eq, ih, List.mem_cons, HostOp.feed.injEq]
    exact ⟨fun ⟨hl, hrest⟩ l' b' u' hmem => hmem.elim (fun heq => heq.1 ▸ hl) (hrest l' b' u'),
      fun hall => ⟨hall l b u (.inl ⟨rfl, rfl, rfl⟩), fun l' b' u' hmem => hall l' b' u' (.inr hmem)⟩⟩
  | case3 f u rest ih | case4 u rest ih | case5 rest ih => simp [linksOk, ih]

/-- A good state whose FEEDs name existing links has a next state, which is another such state. -/
theorem exists_step_of_inv (hs : s.inv = true) (hl : linksOk s.cfg.nLinks s.pending = true) :
    ∃ t, step s = .next t ∧ t.inv = true ∧ linksOk t.cfg.nLinks t.pending = true := by
  obtain ⟨hc, -, hlen, -⟩ := (inv_iff s).1 hs
  cases hp : s.pending with
  | nil => exact ⟨s, step_idle hc hp, hs, hl⟩
  | cons op rest =>
    rw [hp, linksOk_iff] at hl
    obtain ⟨t, hstep⟩ := step_answers (opReady_of_inv hs hp) hlen fun l b u hop => hl l b u (by simp [hop])
    have hrest : t.pending = rest := (step_effect hp hstep).pending
    refine ⟨t, hstep, stepKeepsInvariant s t hs hstep, ?_⟩
    rw [step_cfg hstep, hrest, linksOk_iff]
    exact fun l b u hmem => hl l b u (List.mem_cons_of_mem op hmem)

end RunningOn

/-- Settles O42: the property that gives a good state its next state is one the next state has. -/
theorem goodStatesRunOn : Obligations.GoodStatesRunOn := by
  intro n
  induction n with
  | zero => exact fun s hs _ => ⟨s, rfl, hs⟩
  | succ n ih =>
    intro s hs hl
    obtain ⟨u, hstep, hu, hlu⟩ := exists_step_of_inv hs hl
    rw [run_succ n hstep]
    exact ih u hu hlu

end Sys2Proof.Machine

/-! ## What operations do not see

An update of fields that no command reads commutes with frame processing: it may be made before the frame or after it.
So a frame does the same whatever the assemblers hold, an operation does the same whatever stands behind it, and none
sees the output or the time of an earlier one. -/

namespace Sys2Proof.Machine

section Unread

/-- The answer with an update of its next state. -/
def mapNext (h : State → State) : Result → Result
  | .next t => .next (h t)
  | .fault e => .fault e
  | .refused r => .refused r

theorem mapNext_id (r : Result) : mapNext id r = r := by cases r <;> rfl

/-- The update `g` before a frame is the update `h` after it: no command reads what `g` writes, and once the output is
written the two are the same. -/
structure UnreadByFrames (g h : State → State) : Prop where
  cfg : ∀ s, (g s).cfg = s.cfg
  station : ∀ s k, (g s).station k = s.station k
  mon : ∀ s, (g s).mon = s.mon
  now : ∀ s, (g s).now = s.now
  withMon : ∀ s m, (g s).withMon m = g (s.withMon m)
  withStation : ∀ s k st, (g s).withStation k st = g (s.withStation k st)
  withOut : ∀ s o, (g s).withOut o = h (s.withOut o)

/-- The same for operations, which also read the assemblers and whether a RESET has come. -/
structure UnreadByOps (g h : State → State) : Prop extends UnreadByFrames g h where
  wasReset : ∀ s, (g s).wasReset = s.wasReset
  asms : ∀ s, (g s).asms = s.asms
  withAsm : ∀ s l a, (g s).withAsm l a = g (s.withAsm l a)
  withNow : ∀ s x, (g s).withNow x = g (s.withNow x)
  reset : ∀ s, resetOp (g s) = h (resetOp s)

theorem withAsm_unread (l : Nat) (a : Assembler) : UnreadByFrames (·.withAsm l a) (·.withAsm l a) where
  cfg _ := rfl
  station s := withAsm_station s l a
  mon _ := rfl
  now _ := rfl
  withMon _ _ := rfl
  withStation _ k _ := by cases k <;> rfl
  withOut _ _ := rfl

theorem withOut_unread (o : Output) : UnreadByOps (·.withOut o) id where
  cfg _ := rfl
  station s := withOut_station s o
  mon _ := rfl
  now _ := rfl
  withMon _ _ := rfl
  withStation _ k _ := by cases k <;> rfl
  withOut _ _ := rfl
  wasReset _ := rfl
  asms _ := rfl
  withAsm _ _ _ := rfl
  withNow _ _ := rfl
  reset _ := rfl

theorem withPending_unread (ops : List HostOp) : UnreadByOps (·.withPending ops) (·.withPending ops) where
  cfg _ := rfl
  station s := withPending_station s ops
  mon _ := rfl
  now _ := rfl
  withMon _ _ := rfl
  withStation _ k _ := by cases k <;> rfl
  withOut _ _ := rfl
  wasReset _ := rfl
  asms _ := rfl
  withAsm _ _ _ := rfl
  withNow _ _ := rfl
  reset _ := rfl

namespace UnreadByFrames

variable {g h : State → State} (hg : UnreadByFrames g h) (s : State)

include hg

theorem evaluate (ch : Bool) :
    Machine.evaluate ch (g s) = (Machine.evaluate ch s).map (fun r => (g r.1, r.2)) := by
  have h1 : (g s).st1 = s.st1 := hg.station s .one
  have h2 : (g s).st2 = s.st2 := hg.station s .two
  simp only [Machine.evaluate, hg.cfg, h1, h2, hg.now, hg.mon, hg.withMon, Option.map_map, Function.comp_def]

theorem updateBand (k : StationId) (v : Word) :
    Machine.updateBand k v (g s) = mapNext h (Machine.updateBand k v s) := by
  simp only [Machine.updateBand, hg.cfg, hg.station, hg.now, hg.withStation, hg.evaluate]
  split
  · exact congrArg Host.Outcome.next (hg.withOut s _)
  · cases Machine.evaluate true (s.withStation k { s.station k with band := bandFor s.cfg v, lastChange := s.now }) with
    | none => rfl
    | some r => exact congrArg Host.Outcome.next (hg.withOut r.1 _)

theorem report (o : Output) : (.next ((g s).withOut o) : Result) = mapNext h (.next (s.withOut o)) :=
  congrArg Host.Outcome.next (hg.withOut s o)

theorem applyFreq (k : StationId) (data : List Byte) :
    Machine.applyFreq k data (g s) = mapNext h (Machine.applyFreq k data s) := by
  simp only [Machine.applyFreq]
  split
  · exact hg.report s _
  split
  · exact hg.report s _
  split
  · exact hg.report s _
  · exact hg.updateBand s k _

theorem updateMode (k : StationId) (m : Byte) (filter : Option Byte) :
    Machine.updateMode k m filter (g s) = mapNext h (Machine.updateMode k m filter s) := by
  simp only [Machine.updateMode, hg.cfg, hg.station, hg.withStation, hg.withOut, mapNext]

theorem applyMode (k : StationId) (data : List Byte) :
    Machine.applyMode k data (g s) = mapNext h (Machine.applyMode k data s) := by
  match data with
  | [] => exact hg.report s _
  | [m] => exact hg.updateMode s k m none
  | [m, f] => exact hg.updateMode s k m (some f)
  | _ :: _ :: _ :: _ => exact hg.report s _

theorem exec (i : Instr) : Machine.exec i (g s) = mapNext h (Machine.exec i s) := by
  cases i with
  | sendFreq dest src data | queryFreq dest src data =>
    rw [exec_eq_applyFreq (dest := dest) (src := src) (data := data) (by simp),
      exec_eq_applyFreq (dest := dest) (src := src) (data := data) (by simp), hg.cfg]
    exact hg.applyFreq s _ data
  | sendMode dest src data | queryMode dest src data =>
    rw [exec_eq_applyMode (dest := dest) (src := src) (data := data) (by simp),
      exec_eq_applyMode (dest := dest) (src := src) (data := data) (by simp), hg.cfg]
    exact hg.applyMode s _ data
  | other dest src cmd data =>
    rw [otherCommandIgnored, otherCommandIgnored, hg.cfg]
    exact hg.report s _

/-- A frame does the same before the update as after it. -/
theorem processFrame (f : List Byte) : Machine.processFrame f (g s) = mapNext h (Machine.processFrame f s) := by
  have hcfg : (g s).cfg = s.cfg := hg.cfg s
  cases hd : decode s.cfg f with
  | ok i =>
    rw [processFrame_of_decode_ok hd, processFrame_of_decode_ok (hcfg ▸ hd)]
    exact hg.exec s i
  | err e =>
    rw [processFrame_of_decode_err hd, processFrame_of_decode_err (hcfg ▸ hd)]
    exact hg.report s _

theorem finishAssembly (r : AsmResult) :
    Machine.finishAssembly r (g s) = mapNext h (Machine.finishAssembly r s) := by
  cases r with
  | quiet | badFraming => exact hg.report s _
  | frame f => exact hg.processFrame s f

theorem tickOp : Machine.tickOp (g s) = mapNext h (Machine.tickOp s) := by
  simp only [Machine.tickOp, hg.evaluate]
  cases Machine.evaluate false s with
  | none => rfl
  | some r => exact hg.report r.1 _

end UnreadByFrames

namespace UnreadByOps

variable {g h : State → State} (hg : UnreadByOps g h) (s : State)

include hg

theorem feedOp (l : Nat) (b : Byte) : Machine.feedOp l b (g s) = mapNext h (Machine.feedOp l b s) := by
  simp only [Machine.feedOp, hg.cfg, hg.asms, hg.withAsm]
  split
  · rfl
  split
  · rfl
  split
  · rfl
  · exact hg.finishAssembly _ _

theorem applyOp (op : HostOp) : Machine.applyOp op (g s) = mapNext h (Machine.applyOp op s) := by
  cases op with
  | feed l b u =>
    rw [Machine.applyOp, hg.withNow]
    exact hg.feedOp (s.withNow u) l b
  | frame f u =>
    rw [Machine.applyOp, hg.withNow]
    exact hg.processFrame (s.withNow u) f
  | tick u =>
    rw [Machine.applyOp, hg.withNow]
    exact hg.tickOp (s.withNow u)
  | reset => exact congrArg Host.Outcome.next (hg.reset s)

/-- The step function's checks and the operation are the same before the update as after it. -/
theorem hostStep (op : HostOp) : Machine.hostStep op (g s) = mapNext h (Machine.hostStep op s) := by
  have hcode : (g s).hasReservedCode = s.hasReservedCode := by
    simp only [State.hasReservedCode, hg.mon, hg.asms]
  simp only [Machine.hostStep, hcode, hg.wasReset, hg.applyOp]
  split_ifs
  · rfl
  · rfl
  · rfl

end UnreadByOps

variable {s : State}

/-- Every operation but RESET sets its own time first, and a RESET sets it to 0 (log 3). -/
theorem applyOp_withNow (op : HostOp) (s : State) (x : Time) : applyOp op (s.withNow x) = applyOp op s := by
  cases op with
  | feed l b u | frame f u | tick u | reset => rfl

theorem hostStep_withNow (op : HostOp) (s : State) (x : Time) : hostStep op (s.withNow x) = hostStep op s := by
  simp only [hostStep, applyOp_withNow]
  rfl

end Unread

/-- Settles O51: the operations to come are an update that no operation reads, and none writes them. -/
theorem laterOperationsNotSeen : Obligations.LaterOperationsNotSeen := by
  intro s t op rest rest' h
  have hc : (s.withPending (op :: rest)).cfg.wf = true := cfg_wf_of_step h
  have hleft : t.pending = rest := (step_effect (s := s.withPending (op :: rest)) rfl h).pending
  rw [step_of_pending (s := s.withPending (op :: rest)) hc rfl] at h
  have hlater := (withPending_unread rest').hostStep (s.withPending rest) op
  refine ⟨hleft, ?_⟩
  rw [step_of_pending (s := s.withPending (op :: rest')) hc rfl]
  exact hlater.trans (congrArg (mapNext _) h)

/-- Settles O52: the earlier output is an update that no operation reads and every one overwrites; so is the time. -/
theorem earlierOutputNotSeen : Obligations.EarlierOutputNotSeen := by
  intro s op rest o x hp
  cases hc : s.cfg.wf with
  | false => rw [step_badConfig hc, step_badConfig (s := (s.withOut o).withNow x) hc]
  | true =>
    rw [step_of_pending hc hp, step_of_pending (s := (s.withOut o).withNow x) hc hp]
    have hnow := hostStep_withNow op ((s.withPending rest).withOut o) x
    have hout := (withOut_unread o).hostStep (s.withPending rest) op
    rw [mapNext_id] at hout
    exact hnow.trans hout

end Sys2Proof.Machine

/-! ## Feeding a frame

The bytes of a delimited frame but the last report nothing, so a run over them writes the link's assembler alone; the
last byte hands the whole frame to the processing that FRAME begins with. -/

namespace Sys2Proof.Machine

section QuietBytes

variable {maxLen : Nat} {a a' : Assembler} {bs : List Byte}

/-- The bytes take the assembler from one record to another with nothing to report on the way. -/
inductive QuietBytes (maxLen : Nat) : Assembler → List Byte → Assembler → Prop where
  | nil (a : Assembler) : QuietBytes maxLen a [] a
  | cons {b : Byte} {bs : List Byte} {a a₁ a' : Assembler} (hbyte : assembleByte maxLen b a = some (a₁, .quiet))
    (hrest : QuietBytes maxLen a₁ bs a') : QuietBytes maxLen a (b :: bs) a'

/-- The first bytes of quiet ones are quiet. -/
theorem QuietBytes.take (h : QuietBytes maxLen a bs a') (n : Nat) : ∃ a₁, QuietBytes maxLen a (bs.take n) a₁ := by
  induction h generalizing n with
  | nil a => exact ⟨a, by rw [List.take_nil]; exact .nil a⟩
  | @cons b bs a a₁ a' hbyte hrest ih =>
    cases n with
    | zero => exact ⟨a, .nil a⟩
    | succ n =>
      obtain ⟨a₂, h₂⟩ := ih n
      exact ⟨a₂, .cons hbyte h₂⟩

/-- Bytes of the body are stored one behind the other (40_frame_decoder.md R80). -/
theorem quietBytes_body {n : Nat} {buf : List Byte} (hbuf : buf.length = maxLen) (hlen : n + bs.length ≤ maxLen)
    (hbs : ∀ b ∈ bs, notMarker b = true) :
    ∃ buf', QuietBytes maxLen ⟨.body, n, buf⟩ bs ⟨.body, n + bs.length, buf'⟩ ∧ buf'.length = maxLen ∧
      buf'.take (n + bs.length) = buf.take n ++ bs := by
  induction bs generalizing n buf with
  | nil => exact ⟨buf, .nil _, hbuf, by simp⟩
  | cons b bs ih =>
    obtain ⟨hb, hbs⟩ := List.forall_mem_cons.1 hbs
    obtain ⟨hs, he⟩ := notMarker_iff.1 hb
    rw [List.length_cons, Nat.add_comm bs.length, ← Nat.add_assoc] at hlen ⊢
    have hlt : n < maxLen := by omega
    obtain ⟨buf', hquiet, hbuf', htake⟩ := ih (n := n + 1) (buf := buf.set n b) (by rwa [List.length_set]) hlen hbs
    refine ⟨buf', .cons (assembleByte_body_data rfl hlt hs he) hquiet, hbuf', ?_⟩
    rw [htake, take_succ_set (hbuf.symm ▸ hlt), List.append_assoc, List.singleton_append]

/-- From HUNT, two start markers and a body are quiet, and stand in the buffer (40_frame_decoder.md R78 to R80). -/
theorem quietBytes_of_hunt {body : List Byte} (ha : a.astate = .hunt) (hbuf : a.buf.length = maxLen)
    (hlen : body.length + 3 ≤ maxLen) (hbody : ∀ b ∈ body, notMarker b = true) :
    ∃ buf, QuietBytes maxLen a (startOfMsg :: startOfMsg :: body) ⟨.body, 2 + body.length, buf⟩ ∧
      buf.length = maxLen ∧ buf.take (2 + body.length) = startOfMsg :: startOfMsg :: body := by
  have hset : ((a.buf.set 0 startOfMsg).set 1 startOfMsg).length = maxLen := by rwa [List.length_set, List.length_set]
  obtain ⟨buf, hquiet, hlength, htake⟩ := quietBytes_body (n := 2) hset (by omega) hbody
  refine ⟨buf, .cons (assembleByte_hunt_start ha) (.cons (assembleByte_sync1_start rfl) hquiet), hlength, ?_⟩
  rw [htake, take_succ_set (by rw [List.length_set]; omega), take_succ_set (by omega)]
  rfl

end QuietBytes

section Feeding

variable {s : State} {l : Nat} {t : Time} {b : Byte} {a a' : Assembler} {bs : List Byte} {rest : List HostOp}

theorem feeds_append (l : Nat) (t : Time) (f g : List Byte) : feeds l t (f ++ g) = feeds l t f ++ feeds l t g :=
  List.map_append

/-- A byte brings no assembler to the reserved code. -/
theorem astate_of_assembleByte {maxLen : Nat} {r : AsmResult} (ha : a.astate ≠ .reserved)
    (h : assembleByte maxLen b a = some (a', r)) : a'.astate ≠ .reserved := by
  have hhunt : ∀ x : Assembler, x.astate ≠ .reserved → (huntByte b x).astate ≠ .reserved := fun x hx => by
    rw [huntByte]
    split
    · simp
    · exact hx
  obtain ⟨-, rfl, -⟩ | ⟨-, -, rfl, -⟩ | ⟨-, -, rfl, -⟩ | ⟨-, -, rfl, -⟩ | ⟨-, -, -, rfl, -⟩ | ⟨-, -, -, rfl, -⟩ |
    ⟨-, -, -, -, rfl, -⟩ := assembleByte_cases h
  · exact hhunt a ha
  · simp
  · simp
  · exact hhunt _ (by simp)
  · simp
  · simp
  · simp

/-- A legal record written to an assembler brings in no reserved code. -/
theorem hasReservedCode_withAsm (h : s.hasReservedCode = false) (ha : a.astate ≠ .reserved) :
    (s.withAsm l a).hasReservedCode = false := by
  have hasms : ∀ x ∈ (s.withAsm l a).asms, x.astate ≠ .reserved := fun x hx => by
    obtain hold | rfl := List.mem_or_eq_of_mem_set hx
    · exact astate_of_hasReservedCode h hold
    · exact ha
  simp only [State.hasReservedCode, Bool.or_eq_false_iff, List.any_eq_false, decide_eq_true_eq, decide_eq_false_iff_not]
  have hm : s.mon.mstate ≠ .reserved := mstate_of_hasReservedCode h
  exact ⟨hm, hasms⟩

/-- A link that has taken bytes, into a record with a legal code, is ready for its next FEED. -/
theorem feedReady_withAsm {b' : Byte} {ops : List HostOp} (h : feedReady s l b t ops a) (ha : a'.astate ≠ .reserved) :
    feedReady (((opStart s t (.feed l b' t :: rest)).withAsm l a').withOut Output.zero) l b' t rest a' := by
  obtain ⟨⟨hc, hw, hcode, -⟩, hl, hasm⟩ := h
  obtain ⟨hlt, -⟩ := List.getElem?_eq_some_iff.1 hasm
  exact ⟨⟨hc, hw, hasReservedCode_withAsm hcode ha, rfl⟩, hl, withAsm_getElem?_self _ _ hlt⟩

/-- The assembler of a link that is ready has a legal code. -/
theorem astate_of_feedReady {ops : List HostOp} (h : feedReady s l b t ops a) : a.astate ≠ .reserved := by
  obtain ⟨⟨-, -, hcode, -⟩, -, hasm⟩ := h
  exact astate_of_hasReservedCode hcode (List.mem_of_getElem? hasm)

/-- The last of two records written to one assembler is the one that stands. -/
theorem withAsm_withAsm (s : State) (l : Nat) (a a' : Assembler) : (s.withAsm l a).withAsm l a' = s.withAsm l a' := by
  simp only [State.withAsm, List.set_set]

/-- A run over FEEDs of quiet bytes writes the link's assembler and reports nothing. -/
theorem run_quietFeeds (h : feedReady s l b t (feeds l t bs ++ rest) a)
    (hquiet : QuietBytes s.cfg.maxFrameLen a (b :: bs) a') :
    Host.Core.run Sys2Proof.core (bs.length + 1) s =
      .next (((opStart s t rest).withAsm l a').withOut Output.zero) := by
  induction bs generalizing s b a with
  | nil =>
    cases hquiet with
    | cons hbyte hrest =>
      cases hrest
      exact (run_one s).trans (step_of_quiet h hbyte)
  | cons b' bs ih =>
    cases hquiet with
    | @cons _ _ _ a₁ _ hbyte hrest =>
      have hnext : feedReady (((opStart s t (feeds l t (b' :: bs) ++ rest)).withAsm l a₁).withOut Output.zero) l b' t
          (feeds l t bs ++ rest) a₁ :=
        feedReady_withAsm h (astate_of_assembleByte (astate_of_feedReady h) hbyte)
      rw [← withAsm_withAsm (opStart s t rest) l a₁ a']
      exact (run_succ _ (step_of_quiet h hbyte)).trans (ih hnext hrest)

/-- A run over the first of the quiet bytes reports nothing either, and leaves the stations and the monitor. -/
theorem run_quietFeeds_early {m : Nat} (h : feedReady s l b t (feeds l t bs ++ rest) a)
    (hquiet : QuietBytes s.cfg.maxFrameLen a (b :: bs) a') (hm : m ≤ bs.length) :
    ∃ u, Host.Core.run Sys2Proof.core (m + 1) s = .next u ∧ u.out = Output.zero ∧ u.st1 = s.st1 ∧ u.st2 = s.st2 ∧
      u.mon = s.mon := by
  obtain ⟨a₁, hquiet₁⟩ := hquiet.take (m + 1)
  rw [← List.take_append_drop m bs, feeds_append, List.append_assoc] at h
  have hrun := run_quietFeeds h hquiet₁
  rw [List.length_take_of_le hm] at hrun
  exact ⟨_, hrun, rfl, rfl, rfl, rfl⟩

/-- Before a frame, neither the output nor an assembler makes a difference. -/
theorem processFrame_withAsm_withOut (f : List Byte) (s : State) (l : Nat) (a : Assembler) (o : Output) :
    processFrame f ((s.withAsm l a).withOut o) = mapNext (·.withAsm l a) (processFrame f s) := by
  have hout := (withOut_unread o).processFrame (s.withAsm l a) f
  rw [mapNext_id] at hout
  exact hout.trans ((withAsm_unread l a).processFrame s f)

/-- The end marker behind a body in the buffer hands the frame to the processing that FRAME begins with
(40_frame_decoder.md R82). -/
theorem step_feed_endOfMsg {body buf : List Byte} {n : Nat} (h : feedReady s l endOfMsg t rest ⟨.body, n, buf⟩)
    (hn : n < s.cfg.maxFrameLen) (hbuf : buf.length = s.cfg.maxFrameLen)
    (htake : buf.take n = startOfMsg :: startOfMsg :: body) :
    step s = processFrame (framed body) ((opStart s t rest).withAsm l ⟨.hunt, 0, buf.set n endOfMsg⟩) := by
  rw [step_of_assembled h (assembleByte_body_end rfl hn hbuf), htake]
  rfl

/-- The FEEDs of a delimited frame do what FRAME does with the whole, and leave the link hunting. -/
theorem run_feeds_framed {body : List Byte}
    (h : feedReady s l startOfMsg t (feeds l t (startOfMsg :: (body ++ [endOfMsg])) ++ rest) a)
    (ha : a.astate = .hunt) (hbuf : a.buf.length = s.cfg.maxFrameLen) (hlen : body.length + 3 ≤ s.cfg.maxFrameLen)
    (hbody : ∀ b ∈ body, notMarker b = true) :
    ∃ a', a'.astate = .hunt ∧ a'.cnt = 0 ∧ Host.Core.run Sys2Proof.core (body.length + 3) s =
      mapNext (·.withAsm l a') (processFrame (framed body) (opStart s t rest)) := by
  obtain ⟨buf, hquiet, hlength, htake⟩ := quietBytes_of_hunt ha hbuf hlen hbody
  have hsplit : feeds l t (startOfMsg :: (body ++ [endOfMsg])) ++ rest =
      feeds l t (startOfMsg :: body) ++ .feed l endOfMsg t :: rest := by
    rw [← List.cons_append, feeds_append, List.append_assoc]
    rfl
  rw [hsplit] at h
  have hrun := run_quietFeeds h hquiet
  have hready : feedReady
      (((opStart s t (.feed l endOfMsg t :: rest)).withAsm l ⟨.body, 2 + body.length, buf⟩).withOut Output.zero)
      l endOfMsg t rest ⟨.body, 2 + body.length, buf⟩ := feedReady_withAsm h (by simp)
  have hroom : 2 + body.length < s.cfg.maxFrameLen := by omega
  have hstep := step_feed_endOfMsg hready hroom hlength htake
  refine ⟨⟨.hunt, 0, buf.set (2 + body.length) endOfMsg⟩, rfl, rfl, ?_⟩
  rw [← processFrame_withAsm_withOut _ _ _ _ Output.zero,
    ← withAsm_withAsm (opStart s t rest) l ⟨.body, 2 + body.length, buf⟩]
  exact (run_succ_last hrun).trans hstep

end Feeding

/-- Settles O26: every FEED but the last is one of quiet bytes; the last processes the frame, on a state that differs
from FRAME's in the link's assembler alone. -/
theorem feedingAFrameIsFraming : Obligations.FeedingAFrameIsFraming := by
  intro s l t body rest a hc hw hcode hl hasm ha hbuf hall hlen hp
  have hbody : ∀ b ∈ body, notMarker b = true := List.all_eq_true.1 hall
  have hready : feedReady s l startOfMsg t (feeds l t (startOfMsg :: (body ++ [endOfMsg])) ++ rest) a :=
    ⟨⟨hc, hw, hcode, hp⟩, hl, hasm⟩
  refine ⟨fun n hpos hn => ?quiet, ?last⟩
  case quiet =>
    obtain ⟨buf, hquiet, -⟩ := quietBytes_of_hunt ha hbuf hlen hbody
    obtain ⟨m, rfl⟩ := Nat.exists_eq_add_of_lt hpos
    rw [← List.cons_append, feeds_append, List.append_assoc] at hready
    rw [Nat.zero_add]
    exact run_quietFeeds_early hready hquiet (by rw [List.length_cons]; omega)
  case last =>
    obtain ⟨a', ha', hcnt, hrun⟩ := run_feeds_framed hready ha hbuf hlen hbody
    have hm : (opStart s t rest).mon.mstate ≠ .reserved := mstate_of_hasReservedCode hcode
    obtain ⟨v, hv⟩ := processFrame_answers hm (framed body)
    have hasms : v.asms = s.asms := (processFrame_effect hv).asms
    obtain ⟨hlt, -⟩ := List.getElem?_eq_some_iff.1 hasm
    have hframe : step (s.withPending (.frame (framed body) t :: rest)) = .next v :=
      (step_of_frameReady (s := s.withPending (.frame (framed body) t :: rest)) ⟨hc, hw, hcode, rfl⟩).trans hv
    rw [hv] at hrun
    refine ⟨v.withAsm l a', v, hrun, hframe, rfl, hasms, ⟨a', ?_, ha', hcnt⟩, fun l' hl' => ?_⟩
    · exact withAsm_getElem?_self v a' (hasms ▸ hlt)
    · rw [withAsm_getElem?_of_ne v a' hl', hasms]

end Sys2Proof.Machine
